-- ==== Sys2Proof/Word.lean ====
section
/-! DEFINITION. The word types of the block: a byte, the 32-bit request word `REQ` and the 384-bit ink row
`INK` (spec/00_scope.md R8, spec/20_memory.md R33). All values are unsigned (R8). -/

namespace Sys2Proof

/-- A byte: 8 bits (R8). -/
abbrev Byte := BitVec 8

/-- The request word `W`: 32 bits, taken whole at acceptance (R40, R49). -/
abbrev Word := BitVec 32

/-- One row on the INK bus: bit x is the ink value of pixel x, 1 = ink (R33, R97). -/
abbrev Ink := BitVec 384

/-- A completion code on `RSP` and in `STATUS.CODE`: 3 bits (R21, R33). -/
abbrev Rsp := BitVec 3

end Sys2Proof
end

