-- ==== Sys2Proof/Config.lean ====
section
/-! DEFINITION. What this hardware fixes (the parameters of spec/00_scope.md R7, the constant store of
spec/10_state.md R28), and what the spec leaves open (opaque constants, with no body). -/

namespace Sys2Proof.Config

/-- `ROW_PIXELS` (R7). -/
@[simp] abbrev rowPixels : Nat := 384

/-- `ROW_BYTES` = `ROW_PIXELS / 8` (R7): the size of `LINE_BUF` (R24) and of a packed row (R59). -/
@[simp] abbrev rowBytes : Nat := 48

/-- `RLE_MAX_COUNT` (R7): the largest count a code byte carries (R58). -/
@[simp] abbrev rleMaxCount : Nat := 127

/-- `FALLBACK_LIMIT` (R7): a run-length stream longer than this falls back to the packed form (R103). -/
@[simp] abbrev fallbackLimit : Nat := 48

/-- `PREAMBLE` (R7): bytes 0 and 1 of every frame (R56). -/
def preamble : List Byte := [0x51#8, 0x78#8]

/-- `ORIGIN` (R7): byte 3 of every frame, "host". -/
def origin : Byte := 0x00#8

/-- The reserved zero byte, byte 5 of every frame (R56). -/
def reservedByte : Byte := 0x00#8

/-- `TERMINATOR` (R7): the last byte of every frame. -/
def terminator : Byte := 0xFF#8

/-- The CRC polynomial x^8 + x^2 + x + 1 (R7, R69). PRESUMED by the spec itself from general knowledge
(GK1): entry 11, unsafe. -/
def crcPolynomial : Byte := 0x07#8

/-- The CRC initial value (R7, R69; entry 11). -/
def crcInit : Byte := 0x00#8

/-- `LATTICE_START`: 11 bytes of the constant store (R28). -/
def latticeStart : List Byte :=
  [0xAA#8, 0x55#8, 0x17#8, 0x38#8, 0x44#8, 0x5F#8, 0x5F#8, 0x5F#8, 0x44#8, 0x38#8, 0x2C#8]

/-- `LATTICE_END`: 11 bytes of the constant store (R28). -/
def latticeEnd : List Byte :=
  [0xAA#8, 0x55#8, 0x17#8, 0x00#8, 0x00#8, 0x00#8, 0x00#8, 0x00#8, 0x00#8, 0x00#8, 0x17#8]

/-- The FlowControl flag byte for start (R55). -/
def flowStartFlag : Byte := 0x00#8

/-- The FlowControl flag byte for stop (R55). -/
def flowStopFlag : Byte := 0x10#8

/-- FREE VALUE (entry 5). How many bytes of a frame were handed downstream before `RST` cut its request
off, drawn afresh at each cut: "Which prefix is unspecified" (spec/70_reset_and_hazards.md R128, U8).
The prefix is `frame.take` of it, so every prefix, the empty and the whole one included, is admitted. -/
opaque cutPrefixLength : Nat → Nat

/-- OPEN parameter `QUALITY_CODE` (R7, R82, U4; entry 10): the HOST's map from a quality level to its
byte. No request's meaning reads it: "The block passes the byte unchanged". -/
opaque qualityCode : Nat → Byte

/-- OPEN parameter `DRAWMODE_CODE` (R7, R93, U4; entry 10): the HOST's map from image (false) or text
(true) to its byte. No request's meaning reads it. -/
opaque drawModeCode : Bool → Byte

end Sys2Proof.Config
end

