-- ==== Sys2Proof/Syntax.lean ====
section
/-! DEFINITION. The abstract syntax of the block's requests (spec/30_encoding.md): the 22 request forms of
R61, the classes of R50, the wire opcodes of R60 and the error causes of spec/60_exceptions.md R114. Every
operand has the type of its field (8 bits, 16 bits or the one bit SEL), so a term of `Instr` can carry no
operand its word cannot. -/

namespace Sys2Proof

/-- The request forms, one constructor per row of spec/opcode_table.json (R61). The row that `LINE.ENC`
encodes is no operand of its word: it arrives on the INK bus (R49). -/
inductive Instr where
  /-- `FEED.REV n` (R76) -/
  | feedRev (n : Byte)
  /-- `FEED.FWD n` (R77) -/
  | feedFwd (n : Byte)
  /-- `PRINT.RAW` (R79) -/
  | printRaw
  /-- `GETSTATUS` (R81) -/
  | getStatus
  /-- `SETQUALITY b` (R82) -/
  | setQuality (b : Byte)
  /-- `LATTICE.START` (R83) -/
  | latticeStart
  /-- `LATTICE.END` (R84) -/
  | latticeEnd
  /-- `GETINFO` (R85) -/
  | getInfo
  /-- `UPDATEDEV` (R86) -/
  | updateDev
  /-- `SETWIFI` (R87) -/
  | setWifi
  /-- `FLOW.START` (R88) -/
  | flowStart
  /-- `FLOW.STOP` (R89) -/
  | flowStop
  /-- `SETENERGY e` (R90) -/
  | setEnergy (e : BitVec 16)
  /-- `DEVICEID b` (R91) -/
  | deviceId (b : Byte)
  /-- `SETSPEED b` (R92) -/
  | setSpeed (b : Byte)
  /-- `SETDRAWMODE b` (R93) -/
  | setDrawMode (b : Byte)
  /-- `PRINT.RLE` (R80) -/
  | printRle
  /-- `LINE.ENC c` (R105): c is the source's `useCompression` -/
  | lineEnc (c : Bool)
  /-- `CRC.CLR` (R72) -/
  | crcClr
  /-- `CRC.UPD b` (R73) -/
  | crcUpd (b : Byte)
  /-- `STAT.CLR` (R109) -/
  | statClr
  /-- `CAP.SET c` (R110) -/
  | capSet (c : Bool)
  deriving DecidableEq, Repr

/-- Why a request ends in error (R114). -/
inductive ErrCode where
  /-- `ERR_RSVD`: a must-be-zero bit is set (R53), or `KIND` = CTRL with `OP` ≥ 0x02 -/
  | rsvd
  /-- `ERR_OPCODE`: `KIND` = FRAME and `OP` is none of the 15 wire opcodes -/
  | opcode
  /-- `ERR_NOLINE`: a print request while `LINE.VALID` = 0 -/
  | noLine
  /-- `ERR_PRINTMODE`: the print form does not agree with `LINE.COMP` -/
  | printMode
  deriving DecidableEq, Repr

/-- The request classes that `KIND` selects (R50). -/
inductive ReqKind where
  | frame
  | line
  | crc
  | ctrl
  deriving DecidableEq, Repr

/-- The 15 command variants that have a wire opcode (R60). -/
inductive WireOp where
  | feedReverse
  | feedForward
  | printUncompressed
  | getDeviceStatus
  | setQuality
  | magicLattice
  | getDeviceInfo
  | updateDevice
  | setWifi
  | flowControl
  | setEnergy
  | deviceId
  | setSpeed
  | setDrawingMode
  | printCompressed
  deriving DecidableEq, Repr

/-- The fields of a request word (R49). -/
structure ReqFields where
  /-- bits 1:0 -/
  kind : BitVec 2
  /-- bit 2 -/
  sel  : Bool
  /-- bits 7:3, reserved -/
  rsvd : BitVec 5
  /-- bits 15:8 -/
  op   : Byte
  /-- bits 31:16 -/
  arg  : BitVec 16
  deriving DecidableEq, Repr

end Sys2Proof
end

