-- ==== Sys2Proof/Decode.lean ====
section
/-! DEFINITION. Decoding of request words, total on all 2^32 of them and rejecting by the name of the error
(spec/30_encoding.md R54), and after it the encoder (R61, R66) and the table of R61 as masks and patterns. -/

namespace Sys2Proof

/-- The code of an error on `RSP` and in `STATUS.CODE` (spec/60_exceptions.md R114). -/
def ErrCode.code : ErrCode → Rsp
  | .rsvd => 1#3
  | .opcode => 2#3
  | .noLine => 3#3
  | .printMode => 4#3

/-- The wire opcode of a command variant (R60). -/
def WireOp.code : WireOp → Byte
  | .feedReverse => 0xA0#8
  | .feedForward => 0xA1#8
  | .printUncompressed => 0xA2#8
  | .getDeviceStatus => 0xA3#8
  | .setQuality => 0xA4#8
  | .magicLattice => 0xA6#8
  | .getDeviceInfo => 0xA8#8
  | .updateDevice => 0xA9#8
  | .setWifi => 0xAA#8
  | .flowControl => 0xAE#8
  | .setEnergy => 0xAF#8
  | .deviceId => 0xBB#8
  | .setSpeed => 0xBD#8
  | .setDrawingMode => 0xBE#8
  | .printCompressed => 0xBF#8

/-- All variants, in the order of R60. -/
def WireOp.all : List WireOp :=
  [.feedReverse, .feedForward, .printUncompressed, .getDeviceStatus, .setQuality, .magicLattice,
   .getDeviceInfo, .updateDevice, .setWifi, .flowControl, .setEnergy, .deviceId, .setSpeed,
   .setDrawingMode, .printCompressed]

/-- The variant a byte is the wire opcode of, if any: the other 241 bytes are unassigned (R60, R63). -/
def WireOp.ofByte? (b : Byte) : Option WireOp :=
  WireOp.all.find? fun o => o.code == b

/-- The class that `KIND` selects (R50). -/
def ReqKind.ofBits (k : BitVec 2) : ReqKind :=
  if k = 0b00#2 then .frame
  else if k = 0b01#2 then .line
  else if k = 0b10#2 then .crc
  else .ctrl

/-- The fields of a request word (R49). -/
def fieldsOf (w : Word) : ReqFields where
  kind := w.extractLsb' 0 2
  sel := w.getLsbD 2
  rsvd := w.extractLsb' 3 5
  op := w.extractLsb' 8 8
  arg := w.extractLsb' 16 16

/-- A `require` of R54: the form if the must-be-zero bits are zero, else `ERR_RSVD`. -/
def require (zero : Bool) (i : Instr) : Except ErrCode Instr :=
  if zero then .ok i else .error .rsvd

/-- The low operand byte `ARG[7:0]` (R55). -/
def argLow (arg : BitVec 16) : Byte := arg.extractLsb' 0 8

/-- The high operand byte `ARG[15:8]`. -/
def argHigh (arg : BitVec 16) : Byte := arg.extractLsb' 8 8

/-- A FRAME form with a one-byte operand: SEL and ARG[15:8] must be zero (R54). -/
def requireByte (f : ReqFields) (form : Byte → Instr) : Except ErrCode Instr :=
  require (!f.sel && argHigh f.arg == 0) (form (argLow f.arg))

/-- A FRAME form without an operand: SEL and ARG must be zero (R54). -/
def requireNone (f : ReqFields) (form : Instr) : Except ErrCode Instr :=
  require (!f.sel && f.arg == 0) form

/-- A FRAME form that SEL selects: ARG must be zero (R51, R54). -/
def requireSel (f : ReqFields) (form0 form1 : Instr) : Except ErrCode Instr :=
  require (f.arg == 0) (if f.sel then form1 else form0)

/-- The FRAME class of R54: the opcode check comes before the must-be-zero checks (R115). -/
def decodeFrame (f : ReqFields) : Except ErrCode Instr :=
  match WireOp.ofByte? f.op with
  | none => .error .opcode
  | some .feedReverse => requireByte f .feedRev
  | some .feedForward => requireByte f .feedFwd
  | some .printUncompressed => requireNone f .printRaw
  | some .getDeviceStatus => requireNone f .getStatus
  | some .setQuality => requireByte f .setQuality
  | some .magicLattice => requireSel f .latticeStart .latticeEnd
  | some .getDeviceInfo => requireNone f .getInfo
  | some .updateDevice => requireNone f .updateDev
  | some .setWifi => requireNone f .setWifi
  | some .flowControl => requireSel f .flowStart .flowStop
  | some .setEnergy => require (!f.sel) (.setEnergy f.arg)
  | some .deviceId => requireByte f .deviceId
  | some .setSpeed => requireByte f .setSpeed
  | some .setDrawingMode => requireByte f .setDrawMode
  | some .printCompressed => requireNone f .printRle

/-- The LINE class of R54. -/
def decodeLine (f : ReqFields) : Except ErrCode Instr :=
  require (f.op == 0 && f.arg == 0) (.lineEnc f.sel)

/-- The CRC class of R54. -/
def decodeCrc (f : ReqFields) : Except ErrCode Instr :=
  if f.op = 0 then
    if f.sel then require (argHigh f.arg == 0) (.crcUpd (argLow f.arg))
    else require (f.arg == 0) .crcClr
  else .error .rsvd

/-- The CTRL class of R54 (R52): `OP` ≥ 0x02 is reserved. -/
def decodeCtrl (f : ReqFields) : Except ErrCode Instr :=
  if f.op = 0x00#8 then require (!f.sel && f.arg == 0) .statClr
  else if f.op = 0x01#8 then require (f.arg == 0) (.capSet f.sel)
  else .error .rsvd

/-- Decoding of the fields, in the order of R54: RSVD first, then by class. -/
def decodeFields (f : ReqFields) : Except ErrCode Instr :=
  if f.rsvd = 0 then
    match ReqKind.ofBits f.kind with
    | .frame => decodeFrame f
    | .line => decodeLine f
    | .crc => decodeCrc f
    | .ctrl => decodeCtrl f
  else .error .rsvd

/-- Request decoding, total on every 32-bit word (R54). -/
def decode (w : Word) : Except ErrCode Instr := decodeFields (fieldsOf w)

/-- The host's view of the decoder: the instruction read from the bits `w` of a row of `nbits` bits. A request
word is one 32-bit word (R48), so every bit above `nbits` is 0. -/
def decodeTableWord (nbits w : Nat) : Option Instr :=
  match decode (BitVec.ofNat 32 (w % 2 ^ nbits)) with
  | .ok i => some i
  | .error _ => none

/-! The encoder. -/

/-- The bits of `KIND` (R50). -/
def ReqKind.bits : ReqKind → BitVec 2
  | .frame => 0b00#2
  | .line => 0b01#2
  | .crc => 0b10#2
  | .ctrl => 0b11#2

/-- Fields of a FRAME form (R61). -/
def frameFields (o : WireOp) (sel : Bool) (arg : BitVec 16) : ReqFields :=
  { kind := ReqKind.frame.bits, sel := sel, rsvd := 0, op := o.code, arg := arg }

/-- A byte operand zero-extended into ARG (R55). -/
def byteArg (b : Byte) : BitVec 16 := b.setWidth 16

/-- The columns KIND, SEL, OP and operand of the table of R61. -/
def Instr.fields : Instr → ReqFields
  | .feedRev n => frameFields .feedReverse false (byteArg n)
  | .feedFwd n => frameFields .feedForward false (byteArg n)
  | .printRaw => frameFields .printUncompressed false 0
  | .getStatus => frameFields .getDeviceStatus false 0
  | .setQuality b => frameFields .setQuality false (byteArg b)
  | .latticeStart => frameFields .magicLattice false 0
  | .latticeEnd => frameFields .magicLattice true 0
  | .getInfo => frameFields .getDeviceInfo false 0
  | .updateDev => frameFields .updateDevice false 0
  | .setWifi => frameFields .setWifi false 0
  | .flowStart => frameFields .flowControl false 0
  | .flowStop => frameFields .flowControl true 0
  | .setEnergy e => frameFields .setEnergy false e
  | .deviceId b => frameFields .deviceId false (byteArg b)
  | .setSpeed b => frameFields .setSpeed false (byteArg b)
  | .setDrawMode b => frameFields .setDrawingMode false (byteArg b)
  | .printRle => frameFields .printCompressed false 0
  | .lineEnc c => { kind := ReqKind.line.bits, sel := c, rsvd := 0, op := 0, arg := 0 }
  | .crcClr => { kind := ReqKind.crc.bits, sel := false, rsvd := 0, op := 0, arg := 0 }
  | .crcUpd b => { kind := ReqKind.crc.bits, sel := true, rsvd := 0, op := 0, arg := byteArg b }
  | .statClr => { kind := ReqKind.ctrl.bits, sel := false, rsvd := 0, op := 0x00#8, arg := 0 }
  | .capSet c => { kind := ReqKind.ctrl.bits, sel := c, rsvd := 0, op := 0x01#8, arg := 0 }

/-- The word with given fields: `ARG<<16 | OP<<8 | RSVD<<3 | SEL<<2 | KIND` (R49, R66). -/
def assemble (f : ReqFields) : Word :=
  f.arg.setWidth 32 <<< 16 ||| f.op.setWidth 32 <<< 8 ||| f.rsvd.setWidth 32 <<< 3 |||
    (BitVec.ofBool f.sel).setWidth 32 <<< 2 ||| f.kind.setWidth 32

/-- The request word of an instruction. -/
def encode (i : Instr) : Word := assemble i.fields

/-! The table of R61 as masks and patterns, independent of the decoder above. -/

/-- A row of the table of R61: a word selects the form when `W & mask = match`. -/
structure FormRow where
  pattern : Word
  mask    : Word
  deriving DecidableEq, Repr

/-- A word selects the form of the row. -/
def FormRow.selects (r : FormRow) (w : Word) : Bool := w &&& r.mask == r.pattern

/-- The match and mask columns of R61 for an instruction's form. -/
def Instr.row : Instr → FormRow
  | .feedRev _ => ⟨0x0000A000#32, 0xFF00FFFF#32⟩
  | .feedFwd _ => ⟨0x0000A100#32, 0xFF00FFFF#32⟩
  | .printRaw => ⟨0x0000A200#32, 0xFFFFFFFF#32⟩
  | .getStatus => ⟨0x0000A300#32, 0xFFFFFFFF#32⟩
  | .setQuality _ => ⟨0x0000A400#32, 0xFF00FFFF#32⟩
  | .latticeStart => ⟨0x0000A600#32, 0xFFFFFFFF#32⟩
  | .latticeEnd => ⟨0x0000A604#32, 0xFFFFFFFF#32⟩
  | .getInfo => ⟨0x0000A800#32, 0xFFFFFFFF#32⟩
  | .updateDev => ⟨0x0000A900#32, 0xFFFFFFFF#32⟩
  | .setWifi => ⟨0x0000AA00#32, 0xFFFFFFFF#32⟩
  | .flowStart => ⟨0x0000AE00#32, 0xFFFFFFFF#32⟩
  | .flowStop => ⟨0x0000AE04#32, 0xFFFFFFFF#32⟩
  | .setEnergy _ => ⟨0x0000AF00#32, 0x0000FFFF#32⟩
  | .deviceId _ => ⟨0x0000BB00#32, 0xFF00FFFF#32⟩
  | .setSpeed _ => ⟨0x0000BD00#32, 0xFF00FFFF#32⟩
  | .setDrawMode _ => ⟨0x0000BE00#32, 0xFF00FFFF#32⟩
  | .printRle => ⟨0x0000BF00#32, 0xFFFFFFFF#32⟩
  | .lineEnc _ => ⟨0x00000001#32, 0xFFFFFFFB#32⟩
  | .crcClr => ⟨0x00000002#32, 0xFFFFFFFF#32⟩
  | .crcUpd _ => ⟨0x00000006#32, 0xFF00FFFF#32⟩
  | .statClr => ⟨0x00000003#32, 0xFFFFFFFF#32⟩
  | .capSet _ => ⟨0x00000103#32, 0xFFFFFFFB#32⟩

/-- One instruction of each form, in the order of R61. -/
def formRepresentatives : List Instr :=
  [.feedRev 0, .feedFwd 0, .printRaw, .getStatus, .setQuality 0, .latticeStart, .latticeEnd, .getInfo,
   .updateDev, .setWifi, .flowStart, .flowStop, .setEnergy 0, .deviceId 0, .setSpeed 0, .setDrawMode 0,
   .printRle, .lineEnc false, .crcClr, .crcUpd 0, .statClr, .capSet false]

/-- The 22 rows of R61. -/
def requestTable : List FormRow := formRepresentatives.map Instr.row

end Sys2Proof
end

