-- ==== Sys2Proof/Machine/State.lean ====
section
/-! DEFINITION. The state of the block (spec/10_state.md R16), with the interfaces of spec/20_memory.md R33
held as plain data, the reasons a step can stop, and the state after reset (spec/70_reset_and_hazards.md
R127). -/

namespace Sys2Proof.Machine

/-- The line buffer `LINE_BUF[0..47]`, the block's only data memory (R35): (index, byte) pairs in one
canonical form, see `Memory.wf`. An index that is not listed reads 0x00, the reset contents of R24. -/
abbrev Memory := List Host.Cell

/-- What an unlisted index of `LINE_BUF` reads as: "Reset value: every byte 0x00" (R24). -/
abbrev Memory.blank : Byte := 0x00#8

/-- The canonical form: indices strictly rising, all below 48 (R35), no entry equal to what an unlisted
index reads as. -/
abbrev Memory.wf (m : Memory) : Prop :=
  m.Pairwise (fun p q => p.1 < q.1) ∧ ∀ c ∈ m, c.2 ≠ Memory.blank ∧ c.1 < Config.rowBytes

/-- A request as the host presents it: `REQ` and `INK`, both sampled whole at acceptance (R33, R40, R137). -/
structure Request where
  word : Word
  ink  : Ink
  deriving DecidableEq, Repr

/-- What the host does next: present a request, or read a register through the read port (R33, R111). -/
inductive HostAction where
  | request (r : Request)
  | read (addr : Byte)
  deriving DecidableEq, Repr

/-- What lies outside block and host at one step (entry 2). -/
inductive EnvSample where
  /-- `LATENCY` is over and downstream takes every byte: the outstanding request completes -/
  | go
  /-- `LATENCY` is not over (R34, R138) or downstream is not ready (R133): the request holds -/
  | wait
  /-- `RST` arrives (R128) -/
  | rst
  deriving DecidableEq, Repr

/-- The machine. -/
structure State where
  /-- `CRC`, the standalone checksum accumulator (R20) -/
  crc         : Byte
  /-- `STATUS.ERR`, sticky (R21) -/
  statusErr   : Bool
  /-- `STATUS.CODE`, the first error's code since the last clear (R21) -/
  statusCode  : Rsp
  /-- `LINE.VALID` (R22) -/
  lineValid   : Bool
  /-- `LINE.COMP` (R22) -/
  lineComp    : Bool
  /-- `LINE.LEN` (R23) -/
  lineLen     : BitVec 6
  /-- `LINE_BUF[0..47]` (R24) -/
  lineBuf     : Memory
  /-- `CONFIG.CAP` (R25) -/
  cap         : Bool
  /-- `OUT`, every byte emitted since reset, in order (R16, R38) -/
  out         : List Byte
  /-- the request channel: an accepted request that has not completed (R34, R127) -/
  outstanding : Option Request
  /-- the INK bus as sampled at the latest acceptance (R33, R137; entry 3) -/
  ink         : Ink
  /-- what the host has still to present, oldest first (R18; entry 1) -/
  host        : List HostAction
  /-- the environment's samples, one a step, the next one first (entry 2) -/
  env         : List EnvSample
  /-- after the last of these samples: downstream never takes another byte (R133, U7; entry 2) -/
  downstreamStuck : Bool
  /-- `RSP`: the code of every request completed since reset, in order (R33, R114; entry 4) -/
  rsp         : List Rsp
  /-- the read port's answers since reset, in order (R111; entry 4) -/
  reads       : List Byte
  /-- the model's own: every byte ever handed downstream; reset does not recall them (R128; entry 5) -/
  sent        : List Byte
  /-- the model's own: the row the last completed `LINE.ENC` sampled (R30, R97; entry 6) -/
  row         : Ink
  /-- the model's own: how many free values have been drawn (entry 5) -/
  draws       : Nat
  deriving DecidableEq, Repr

/-- Why the model stops. An error of the block (R114) is none of these: it is a next state. -/
inductive Fault where
  /-- Raised by `PRINT.RAW` and `PRINT.RLE` in a state whose `LINE.LEN` exceeds 48: the payload would read an
  index of `LINE_BUF` that "cannot arise" (spec/20_memory.md R35). No step from a state of R30 reaches it.
  Safe: the model stops where the spec gives no effect (entry 8). -/
  | lineIndexOutOfRange
  deriving DecidableEq, Repr

/-- Why the model has no meaning for an instruction. -/
inductive Refusal where
  /-- Raised by `exec` for an instruction without a meaning; no arm of `exec` answers it now. Safe. -/
  | notModelled (mnemonic : String)
  deriving DecidableEq, Repr

/-- The machine right after reset (R127). The fields that are inputs, records of the interfaces or the
model's own start empty or zero (entries 1 to 6). -/
def State.reset : State where
  crc := 0x00#8
  statusErr := false
  statusCode := 0#3
  lineValid := false
  lineComp := false
  lineLen := 0#6
  lineBuf := []
  cap := false
  out := []
  outstanding := none
  ink := 0#384
  host := []
  env := []
  downstreamStuck := false
  rsp := []
  reads := []
  sent := []
  row := 0#384
  draws := 0

end Sys2Proof.Machine
end

