-- ==== Sys2Proof/Machine/Ops.lean ====
section
/-! DEFINITION. The shared operations over the line buffer, the output stream and the response, and the
error entry, the block's only exception mechanism (spec/20_memory.md, spec/60_exceptions.md). -/

namespace Sys2Proof.Machine

/-- The byte at an index: its entry, or what an unlisted index reads as. -/
def Memory.read (m : Memory) (i : Nat) : Byte :=
  match m.find? (fun c => c.1 == i) with
  | some c => c.2
  | none => Memory.blank

/-- Put a cell before the first one of a larger index. -/
def Memory.insertCell (c : Host.Cell) : Memory → Memory
  | [] => [c]
  | d :: m => if c.1 < d.1 then c :: d :: m else d :: Memory.insertCell c m

/-- Write one byte, keeping the canonical form: the value an unlisted index reads as removes the entry. -/
def Memory.write (m : Memory) (i : Nat) (v : Byte) : Memory :=
  let rest := m.filter (fun c => c.1 != i)
  if v = Memory.blank then rest else Memory.insertCell (i, v) rest

/-- `for i in 0 .. 47: MemWrite(i, 1, buf[i])` (R105): all 48 bytes, whatever was there. A byte that `buf` does
not have is 0x00; `select` always gives 48 (R103). -/
def writeLineBuf (buf : List Byte) (m : Memory) : Memory :=
  (List.range Config.rowBytes).foldl (fun m i => m.write i (buf.getD i 0x00#8)) m

/-- `[MemRead(i, 1) for i in 0 .. n-1]` (R78). An index at or above 48 does not exist (R35): none. -/
def readLineBuf (m : Memory) (n : Nat) : Option (List Byte) :=
  if n ≤ Config.rowBytes then some ((List.range n).map m.read) else none

/-- `Emit(bytes)`: append to the output stream, in order (R10, R38). The bytes are handed downstream. -/
def emit (bytes : List Byte) (s : State) : State :=
  { s with out := s.out ++ bytes, sent := s.sent ++ bytes }

/-- The completion code on `RSP` (R34, R114). -/
def respond (code : Rsp) (s : State) : State :=
  { s with rsp := s.rsp ++ [code] }

/-- The completion code of a success (R114). -/
def rspOk : Rsp := 0#3

/-- Completion without error: `RSP <- 0`. -/
def succeed (s : State) : State := respond rspOk s

/-- ERROR ENTRY, `Fail(k)` of R116, exactly: `RSP <- k`; `STATUS.CODE <- k` if `STATUS.ERR` = 0;
`STATUS.ERR <- 1`. No control goes anywhere: the block has no handler, vector or saved pc. -/
def fail (k : ErrCode) (s : State) : State :=
  respond k.code
    { s with statusCode := if s.statusErr then s.statusCode else k.code, statusErr := true }

/-- The acknowledgement of an error: there is no return from error (R118), only this clearing of the sticky
flag and its code (R109). -/
def clearStatus (s : State) : State :=
  { s with statusErr := false, statusCode := 0#3 }

end Sys2Proof.Machine
end

