-- ==== Sys2Proof/Machine/Flags.lean ====
section
/-! DEFINITION. The flags (spec/10_state.md R19) as the registers show them, and the computations over them:
the register layouts of R21, R22, R23 and R25, the effective compression bit of spec/42_line.md R104, the
checks of a print request (spec/41_frame.md R78). -/

namespace Sys2Proof.Machine

/-- A flag as the low bit of a byte. -/
def flagByte (b : Bool) : Byte := if b then 0x01#8 else 0x00#8

/-- `STATUS`: `ERR` in bit 0, `CODE` in bits 3:1, the rest 0 (R21, R111). -/
def statusByte (s : State) : Byte := s.statusCode.setWidth 8 <<< 1 ||| flagByte s.statusErr

/-- `LINE_INFO`: `VALID` in bit 0, `COMP` in bit 1, the rest 0 (R22, R111). -/
def lineInfoByte (s : State) : Byte := flagByte s.lineComp <<< 1 ||| flagByte s.lineValid

/-- `LINE_LEN`: `LEN` in bits 5:0, the rest 0 (R23, R111). -/
def lineLenByte (s : State) : Byte := s.lineLen.setWidth 8

/-- `CONFIG`: `CAP` in bit 0, the rest 0 (R25, R111). -/
def configByte (s : State) : Byte := flagByte s.cap

/-- The effective compression bit `ce = c & CONFIG.CAP` (R104, C5). -/
def effectiveCompression (c cap : Bool) : Bool := c && cap

/-- Why a print request that wants `LINE.COMP` = want ends in error, if it does: no line first, then the wrong
form (R78, R115). -/
def printError (want : Bool) (s : State) : Option ErrCode :=
  if s.lineValid then
    if s.lineComp = want then none else some .printMode
  else some .noLine

end Sys2Proof.Machine
end

