-- ==== Sys2Proof/Machine/Operands.lean ====
section
/-! DEFINITION. The payload each frame form builds from its operands (spec/30_encoding.md R55): every operand
is taken as given, zero-extended, never sign-extended, scaled or shifted but for the split of the energy. -/

namespace Sys2Proof.Machine

/-- "Feed → [length, 0]" -/
def feedPayload (n : Byte) : List Byte := [n, 0x00#8]

/-- "single byte", "single enum byte": the byte as given -/
def bytePayload (b : Byte) : List Byte := [b]

/-- "single zero byte" -/
def zeroPayload : List Byte := [0x00#8]

/-- "SetEnergy(e) → little-endian 2 bytes": `[e[7:0], e[15:8]]` (R36) -/
def energyPayload (e : BitVec 16) : List Byte := [e.extractLsb' 0 8, e.extractLsb' 8 8]

/-- "FlowControl → single flag byte", start -/
def flowStartPayload : List Byte := [Config.flowStartFlag]

/-- "FlowControl → single flag byte", stop -/
def flowStopPayload : List Byte := [Config.flowStopFlag]

/-- "others → empty payload" -/
def emptyPayload : List Byte := []

/-- "Print → the line's encoded bytes truncated to its encoded length": `LINE_BUF[0 .. LEN-1]` (R78). None in a
state whose `LEN` exceeds 48, where an index would not exist (R35). -/
def linePayload (s : State) : Option (List Byte) := readLineBuf s.lineBuf s.lineLen.toNat

end Sys2Proof.Machine
end

