-- ==== Sys2Proof/Machine/Checksum.lean ====
section
/-! DEFINITION. The checksum unit (spec/40_checksum.md): the CRC-8 function of R70 and the requests `CRC.CLR`
and `CRC.UPD`. -/

namespace Sys2Proof.Machine

/-- One shift of R70: bit 7 falls out, bit 0 becomes 0, and the polynomial is added if bit 7 was 1. -/
def crcShift (c : Byte) : Byte :=
  if c.getLsbD 7 then (c <<< 1) ^^^ Config.crcPolynomial else c <<< 1

/-- `crc8_step(c, b)`: `c ^ b`, shifted 8 times (R70). -/
def crc8Step (c b : Byte) : Byte :=
  (List.range 8).foldl (fun c _ => crcShift c) (c ^^^ b)

/-- `crc8(p)` (R70). -/
def crc8 (p : List Byte) : Byte := p.foldl crc8Step Config.crcInit

/-- `CRC.CLR` (R72). -/
def execCrcClr (s : State) : Host.Outcome State Fault Refusal :=
  .next (succeed { s with crc := Config.crcInit })

/-- `CRC.UPD b` (R73). -/
def execCrcUpd (b : Byte) (s : State) : Host.Outcome State Fault Refusal :=
  .next (succeed { s with crc := crc8Step s.crc b })

end Sys2Proof.Machine
end

