-- ==== Sys2Proof/Machine/Frame.lean ====
section
/-! DEFINITION. The frame encoder (spec/41_frame.md): frame assembly (R75, R56) and the 17 frame requests. -/

namespace Sys2Proof.Machine

/-- `frame(op, p)` (R75): preamble, opcode, origin, length, reserved byte, payload, checksum of the payload,
terminator. Every payload the block builds has at most 48 bytes (R95), so the length byte is exact; for
longer lists, which no request presents (U1), nothing is claimed of it. -/
def frame (op : Byte) (p : List Byte) : List Byte :=
  Config.preamble ++ [op, Config.origin, BitVec.ofNat 8 p.length, Config.reservedByte] ++ p ++
    [crc8 p, Config.terminator]

/-- `FrameRequest(op, p)` (R75): emit the frame, `RSP <- 0`, nothing else (R96). -/
def frameRequest (o : WireOp) (p : List Byte) (s : State) : Host.Outcome State Fault Refusal :=
  .next (succeed (emit (frame o.code p) s))

/-- Both print forms (R78 to R80): the checks, then the frame of `LINE_BUF[0 .. LEN-1]`. -/
def printRequest (o : WireOp) (want : Bool) (s : State) : Host.Outcome State Fault Refusal :=
  match printError want s with
  | some k => .next (fail k s)
  | none =>
    match linePayload s with
    | some p => frameRequest o p s
    | none => .fault .lineIndexOutOfRange

/-- `FEED.REV n` (R76). -/
def execFeedRev (n : Byte) (s : State) : Host.Outcome State Fault Refusal :=
  frameRequest .feedReverse (feedPayload n) s

/-- `FEED.FWD n` (R77). -/
def execFeedFwd (n : Byte) (s : State) : Host.Outcome State Fault Refusal :=
  frameRequest .feedForward (feedPayload n) s

/-- `PRINT.RAW` (R79). -/
def execPrintRaw (s : State) : Host.Outcome State Fault Refusal :=
  printRequest .printUncompressed false s

/-- `PRINT.RLE` (R80). -/
def execPrintRle (s : State) : Host.Outcome State Fault Refusal :=
  printRequest .printCompressed true s

/-- `GETSTATUS` (R81, C1). -/
def execGetStatus (s : State) : Host.Outcome State Fault Refusal :=
  frameRequest .getDeviceStatus zeroPayload s

/-- `SETQUALITY b` (R82): the byte as given. -/
def execSetQuality (b : Byte) (s : State) : Host.Outcome State Fault Refusal :=
  frameRequest .setQuality (bytePayload b) s

/-- `LATTICE.START` (R83). -/
def execLatticeStart (s : State) : Host.Outcome State Fault Refusal :=
  frameRequest .magicLattice Config.latticeStart s

/-- `LATTICE.END` (R84). -/
def execLatticeEnd (s : State) : Host.Outcome State Fault Refusal :=
  frameRequest .magicLattice Config.latticeEnd s

/-- `GETINFO` (R85). -/
def execGetInfo (s : State) : Host.Outcome State Fault Refusal :=
  frameRequest .getDeviceInfo zeroPayload s

/-- `UPDATEDEV` (R86). -/
def execUpdateDev (s : State) : Host.Outcome State Fault Refusal :=
  frameRequest .updateDevice zeroPayload s

/-- `SETWIFI` (R87): the one form with an empty payload. -/
def execSetWifi (s : State) : Host.Outcome State Fault Refusal :=
  frameRequest .setWifi emptyPayload s

/-- `FLOW.START` (R88): the frame only; nothing is started in the block. -/
def execFlowStart (s : State) : Host.Outcome State Fault Refusal :=
  frameRequest .flowControl flowStartPayload s

/-- `FLOW.STOP` (R89). -/
def execFlowStop (s : State) : Host.Outcome State Fault Refusal :=
  frameRequest .flowControl flowStopPayload s

/-- `SETENERGY e` (R90): low byte first. -/
def execSetEnergy (e : BitVec 16) (s : State) : Host.Outcome State Fault Refusal :=
  frameRequest .setEnergy (energyPayload e) s

/-- `DEVICEID b` (R91). -/
def execDeviceId (b : Byte) (s : State) : Host.Outcome State Fault Refusal :=
  frameRequest .deviceId (bytePayload b) s

/-- `SETSPEED b` (R92). -/
def execSetSpeed (b : Byte) (s : State) : Host.Outcome State Fault Refusal :=
  frameRequest .setSpeed (bytePayload b) s

/-- `SETDRAWMODE b` (R93): the byte as given. -/
def execSetDrawMode (b : Byte) (s : State) : Host.Outcome State Fault Refusal :=
  frameRequest .setDrawingMode (bytePayload b) s

/-! Reading the stream (R57): a reader that starts at a frame boundary delimits each frame from byte 4 alone. -/

/-- The first frame of a byte sequence, delimited by its length byte, and the bytes after it (R57). None where
the bytes are no whole frame. -/
def splitFrame (bytes : List Byte) : Option (List Byte × List Byte) :=
  match bytes[4]? with
  | none => none
  | some n =>
    let len := n.toNat + 8
    if len ≤ bytes.length then some (bytes.take len, bytes.drop len) else none

end Sys2Proof.Machine
end

