-- ==== Sys2Proof/Machine/Line.lean ====
section
/-! DEFINITION. The row packer, the run-length encoder and the fallback selector (spec/42_line.md), and the
request `LINE.ENC`. The three functions `pack`, `rle` and `select` are pure. -/

namespace Sys2Proof.Machine

/-- `ink[x]`, the ink value of pixel x (R97). -/
def inkBit (ink : Ink) (x : Nat) : Bool := ink.getLsbD x

/-- The row in scan order, pixel 0 first (R97). -/
def inkRow (ink : Ink) : List Bool := (List.range Config.rowPixels).map (inkBit ink)

/-- Byte i of the packed row: the sum over j in 0 .. 7 of `ink[8*i + j] << j` (R98). -/
def packByte (ink : Ink) (i : Nat) : Byte :=
  BitVec.ofNat 8 ((List.range 8).map fun j => (inkBit ink (8 * i + j)).toNat <<< j).sum

/-- `pack(ink)`: 48 bytes (R98). -/
def pack (ink : Ink) : List Byte := (List.range Config.rowBytes).map (packByte ink)

/-- Pixel x of a packed row: byte `x / 8`, bit `x % 8` (R59, R99). -/
def unpackBit (p : List Byte) (x : Nat) : Bool := (p.getD (x / 8) 0x00#8).getLsbD (x % 8)

/-- The row with given ink values. -/
def inkOf (f : Nat → Bool) : Ink := BitVec.ofFnLE fun x : Fin 384 => f x

/-- The row a packed form stands for (R99 (a)). -/
def unpack (p : List Byte) : Ink := inkOf (unpackBit p)

/-- The maximal runs of a row, first one first: the value and how many consecutive pixels have it (R13, R100). -/
def runs : List Bool → List (Bool × Nat)
  | [] => []
  | v :: bits =>
    match runs bits with
    | [] => [(v, 1)]
    | (u, n) :: rest => if v = u then (v, n + 1) :: rest else (v, 1) :: (u, n) :: rest

/-- A code byte `(v << 7) | n`: bit 7 the run's value, bits 6:0 the count, 1 to 127 (R58, R100). -/
def codeByte (v : Bool) (n : Nat) : Byte := flagByte v <<< 7 ||| BitVec.ofNat 8 n

/-- The codes of one run (R100): as many codes of count 127 as fit, then one for the remainder unless it is
empty. -/
def runCodes (v : Bool) (len : Nat) : List Byte :=
  List.replicate (len / Config.rleMaxCount) (codeByte v Config.rleMaxCount) ++
    if 0 < len % Config.rleMaxCount then [codeByte v (len % Config.rleMaxCount)] else []

/-- The run-length stream of a sequence of ink values (R100). -/
def rleBits (bits : List Bool) : List Byte := (runs bits).flatMap fun r => runCodes r.1 r.2

/-- `rle(ink)` (R100). -/
def rle (ink : Ink) : List Byte := rleBits (inkRow ink)

/-- `unrle(r)`, the expansion: `c[6:0]` copies of `c[7]` for each code byte (R102). No request expands. -/
def unrle (r : List Byte) : List Bool :=
  r.flatMap fun c => List.replicate (c.extractLsb' 0 7).toNat (c.getLsbD 7)

/-- What the selector picks: the source's Line (R103). -/
structure Line where
  comp : Bool
  len  : Nat
  buf  : List Byte
  deriving DecidableEq, Repr

/-- `select(ink, ce)` (R103): the run-length stream if compression is effective and it has at most 48 bytes
(C2: exactly 48 stays compressed), zero-filled to 48; else the packed row. -/
def select (ink : Ink) (ce : Bool) : Line :=
  if ce && decide ((rle ink).length ≤ Config.fallbackLimit) then
    { comp := true
      len := (rle ink).length
      buf := rle ink ++ List.replicate (Config.rowBytes - (rle ink).length) 0x00#8 }
  else { comp := false, len := Config.rowBytes, buf := pack ink }

/-- Write the LINE group from a Line (R105): `COMP`, `LEN`, all 48 bytes of `LINE_BUF`, `VALID <- 1`. The row it
was made from is noted beside it (entry 6). -/
def writeLine (l : Line) (ink : Ink) (s : State) : State :=
  { s with
    lineComp := l.comp
    lineLen := BitVec.ofNat 6 l.len
    lineBuf := writeLineBuf l.buf s.lineBuf
    lineValid := true
    row := ink }

/-- `LINE.ENC c` (R105): the row is the INK bus as sampled at acceptance (R97, R137). -/
def execLineEnc (c : Bool) (s : State) : Host.Outcome State Fault Refusal :=
  .next (succeed (writeLine (select s.ink (effectiveCompression c s.cap)) s.ink s))

end Sys2Proof.Machine
end

