-- ==== Sys2Proof/Machine/Control.lean ====
section
/-! DEFINITION. The control requests and the register read port (spec/43_control.md). -/

namespace Sys2Proof.Machine

/-- `STAT.CLR` (R109). -/
def execStatClr (s : State) : Host.Outcome State Fault Refusal :=
  .next (succeed (clearStatus s))

/-- `CAP.SET c` (R110). -/
def execCapSet (c : Bool) (s : State) : Host.Outcome State Fault Refusal :=
  .next (succeed { s with cap := c })

/-- `RD(a)`, the register read port: the map of R26, every other address 0x00 (R111). -/
def readPort (a : Byte) (s : State) : Byte :=
  if a = 0x00#8 then statusByte s
  else if a = 0x01#8 then s.crc
  else if a = 0x02#8 then lineInfoByte s
  else if a = 0x03#8 then lineLenByte s
  else if a = 0x04#8 then configByte s
  else if 0x10 ≤ a.toNat ∧ a.toNat ≤ 0x3F then s.lineBuf.read (a.toNat - 0x10)
  else 0x00#8

end Sys2Proof.Machine
end

