-- ==== Sys2Proof/Machine/Dispatch.lean ====
section
/-! DEFINITION. exec: one arm per request form, each one direct call of its meaning. -/

namespace Sys2Proof.Machine

def exec (i : Instr) (s : State) : Host.Outcome State Fault Refusal :=
  match i with
  | .feedRev n => Sys2Proof.Machine.execFeedRev n s
  | .feedFwd n => Sys2Proof.Machine.execFeedFwd n s
  | .printRaw => Sys2Proof.Machine.execPrintRaw s
  | .getStatus => Sys2Proof.Machine.execGetStatus s
  | .setQuality b => Sys2Proof.Machine.execSetQuality b s
  | .latticeStart => Sys2Proof.Machine.execLatticeStart s
  | .latticeEnd => Sys2Proof.Machine.execLatticeEnd s
  | .getInfo => Sys2Proof.Machine.execGetInfo s
  | .updateDev => Sys2Proof.Machine.execUpdateDev s
  | .setWifi => Sys2Proof.Machine.execSetWifi s
  | .flowStart => Sys2Proof.Machine.execFlowStart s
  | .flowStop => Sys2Proof.Machine.execFlowStop s
  | .setEnergy e => Sys2Proof.Machine.execSetEnergy e s
  | .deviceId b => Sys2Proof.Machine.execDeviceId b s
  | .setSpeed b => Sys2Proof.Machine.execSetSpeed b s
  | .setDrawMode b => Sys2Proof.Machine.execSetDrawMode b s
  | .printRle => Sys2Proof.Machine.execPrintRle s
  | .lineEnc c => Sys2Proof.Machine.execLineEnc c s
  | .crcClr => Sys2Proof.Machine.execCrcClr s
  | .crcUpd b => Sys2Proof.Machine.execCrcUpd b s
  | .statClr => Sys2Proof.Machine.execStatClr s
  | .capSet c => Sys2Proof.Machine.execCapSet c s

end Sys2Proof.Machine
end

