-- ==== Sys2Proof/Machine/Channel.lean ====
section
/-! DEFINITION. The request channel (spec/20_memory.md R34), the read port's place in the order (R43,
spec/70_reset_and_hazards.md R136), the hold of an outstanding request (R133) and the reset input (R128):
what a step does around `exec`. -/

namespace Sys2Proof.Machine

/-- The effect of a request whose REQ and INK were sampled as r: the decoded form's effect, or the error entry
with the code decoding gives (R54, R62, R116). -/
def perform (r : Request) (s : State) : Host.Outcome State Fault Refusal :=
  match decode r.word with
  | .ok i => exec i { s with ink := r.ink }
  | .error k => .next (fail k { s with ink := r.ink })

/-- An accepted request completes, and the channel is idle again (R34). -/
def complete (r : Request) (s : State) : Host.Outcome State Fault Refusal :=
  perform r { s with outstanding := none }

/-- A register read answers with the state the last completed request left, and changes nothing (R40, R111). -/
def answerRead (a : Byte) (s : State) : State :=
  { s with reads := s.reads ++ [readPort a s] }

/-- The environment lets a request complete: the outstanding one if there is one; else the host's next action,
a request being accepted and completed at once, as one atomic step (R10, R34, R43). With nothing to do the
block holds all its state (R126). -/
def advance (s : State) : Host.Outcome State Fault Refusal :=
  match s.outstanding with
  | some r => complete r s
  | none =>
    match s.host with
    | [] => .next s
    | .read a :: rest => .next (answerRead a { s with host := rest })
    | .request r :: rest => complete r { s with host := rest }

/-- The environment lets no request complete: an outstanding one is held, and with it every later request and
read (R133, R136); if the channel is idle, a read is answered and a request is accepted, its REQ and INK
sampled, and held (R137). -/
def hold (s : State) : State :=
  match s.outstanding with
  | some _ => s
  | none =>
    match s.host with
    | [] => s
    | .read a :: rest => answerRead a { s with host := rest }
    | .request r :: rest => { s with outstanding := some r, ink := r.ink, host := rest }

/-- The bytes a request would emit if it completed now (R75, R128): none for one that is no frame request or
ends in an error. -/
def emitted (r : Request) (s : State) : List Byte :=
  match perform r s with
  | .next t => t.out.drop s.out.length
  | .fault _ => []
  | .refused _ => []

/-- The request the block would complete next: the outstanding one, or the one the host presents next. -/
def nextRequest (s : State) : Option Request :=
  match s.outstanding with
  | some r => some r
  | none =>
    match s.host with
    | .request r :: _ => some r
    | .read _ :: _ => none
    | [] => none

/-- Downstream takes no byte (R133, U7): a request that would emit one is held, "stuck, not faulted", and with it all
that comes after it; one that emits nothing needs no downstream and goes on, as does a read at an idle block. -/
def stall (s : State) : Host.Outcome State Fault Refusal :=
  match nextRequest s with
  | none => advance s
  | some r => if emitted r s = [] then advance s else .next (hold s)

/-- The bytes of an abandoned request that were handed downstream before `RST`: a prefix, possibly empty, of
what it would have emitted; which one is a free value (R128, U8; entry 5). -/
def cutBytes (s : State) : List Byte :=
  match s.outstanding with
  | some r => (emitted r s).take (Config.cutPrefixLength s.draws)
  | none => []

/-- `RST` arrives (R127, R128): every piece of state takes its reset value; an outstanding request is abandoned
with no `RSP`. What is outside the block stays: the host's later actions, the environment, the value on INK,
and the bytes already handed downstream, which "are not recalled". -/
def takeReset (s : State) : State :=
  { State.reset with
    ink := s.ink
    host := s.host
    env := s.env
    downstreamStuck := s.downstreamStuck
    sent := s.sent ++ cutBytes s
    draws := s.draws + 1 }

/-- The state s in which the host presents the request (w, ink) next and the environment lets it complete: the
very next step accepts it and runs it to completion. -/
def State.offer (s : State) (w : Word) (ink : Ink) : State :=
  { s with outstanding := none, host := .request ⟨w, ink⟩ :: s.host, env := .go :: s.env }

end Sys2Proof.Machine
end

