-- ==== Sys2Proof/Machine/Step.lean ====
section
/-! DEFINITION. One step of the machine: one sample of the environment, and what the block does at it. The block
fetches no instructions (spec/20_memory.md R32): its program is the sequence of requests the host presents
(spec/10_state.md R18), held in `State.host`. -/

namespace Sys2Proof.Machine

/-- One step. When the samples are exhausted, requests complete at once, unless downstream is stuck for good: then the
block can be stuck for ever (R133, U7; entry 2). -/
def step (s : State) : Host.Outcome State Fault Refusal :=
  match s.env with
  | [] => if s.downstreamStuck then stall s else advance s
  | .go :: env => advance { s with env := env }
  | .wait :: env => .next (hold { s with env := env })
  | .rst :: env => .next (takeReset { s with env := env })

/-- s with the request of the row's bits presented next (entry 1): the very next step runs it. The bus carries
what it carried. -/
def State.withFetchWord (s : State) (nbits w : Nat) : State :=
  s.offer (BitVec.ofNat 32 (w % 2 ^ nbits)) s.ink

end Sys2Proof.Machine
end

