-- ==== Sys2Proof/Machine/Asm.lean ====
section
/-! DEFINITION. The host's spellings (spec/30_encoding.md): the assembler syntax of R66, the pseudo-instructions of
R67, and the host-side parameters of spec/00_scope.md R7. Nothing here has an effect on the block (D24): every
spelling is a list of the host's actions. -/

namespace Sys2Proof.Machine

/-- The mnemonic of R61. -/
def mnemonicOf : Instr → String
  | .feedRev _ => "FEED.REV"
  | .feedFwd _ => "FEED.FWD"
  | .printRaw => "PRINT.RAW"
  | .getStatus => "GETSTATUS"
  | .setQuality _ => "SETQUALITY"
  | .latticeStart => "LATTICE.START"
  | .latticeEnd => "LATTICE.END"
  | .getInfo => "GETINFO"
  | .updateDev => "UPDATEDEV"
  | .setWifi => "SETWIFI"
  | .flowStart => "FLOW.START"
  | .flowStop => "FLOW.STOP"
  | .setEnergy _ => "SETENERGY"
  | .deviceId _ => "DEVICEID"
  | .setSpeed _ => "SETSPEED"
  | .setDrawMode _ => "SETDRAWMODE"
  | .printRle => "PRINT.RLE"
  | .lineEnc _ => "LINE.ENC"
  | .crcClr => "CRC.CLR"
  | .crcUpd _ => "CRC.UPD"
  | .statClr => "STAT.CLR"
  | .capSet _ => "CAP.SET"

/-- The host presents an instruction that does not read INK; the value on the bus is ignored (R33). -/
def present (i : Instr) : HostAction := .request ⟨encode i, 0⟩

/-- The host presents `LINE.ENC c` with a row on INK. -/
def presentRow (c : Bool) (ink : Ink) : HostAction := .request ⟨encode (.lineEnc c), ink⟩

/-! Pseudo-instructions (R67). -/

/-- The pseudo-instructions of R67. -/
inductive Pseudo where
  /-- `FEED fwd, n` / `FEED rev, n` -/
  | feed (forward : Bool) (n : Byte)
  /-- `LATTICE start` / `LATTICE end` -/
  | lattice (start : Bool)
  /-- `FLOW start` / `FLOW stop` -/
  | flow (start : Bool)
  /-- `PRINT` -/
  | print
  /-- `PRINTROW c, ink` -/
  | printRow (c : Bool) (ink : Ink)
  /-- `CRC.BUF b0, ..., bk` -/
  | crcBuf (bytes : List Byte)
  deriving DecidableEq, Repr

/-- The print form that `PRINT` picks from the byte `RD 0x02` answered: `PRINT.RLE` if its bit 1 is 1, else
`PRINT.RAW` (R67). -/
def printForm (info : Byte) : Instr := if info.getLsbD 1 then .printRle else .printRaw

/-- The expansion of R67; `info` is the byte that the expansion's `RD 0x02` answers, where it has one. -/
def Pseudo.expand (info : Byte) : Pseudo → List HostAction
  | .feed true n => [present (.feedFwd n)]
  | .feed false n => [present (.feedRev n)]
  | .lattice true => [present .latticeStart]
  | .lattice false => [present .latticeEnd]
  | .flow true => [present .flowStart]
  | .flow false => [present .flowStop]
  | .print => [.read 0x02#8, present (printForm info)]
  | .printRow c ink => [presentRow c ink, .read 0x02#8, present (printForm info)]
  | .crcBuf bytes => present .crcClr :: bytes.map fun b => present (.crcUpd b)

/-! The host's own maps, open parameters (R7, U4; entry 10). -/

/-- `SETQUALITY` of a quality level, through the host's map `QUALITY_CODE` (R82). -/
def setQualityLevel (level : Nat) : Instr := .setQuality (Config.qualityCode level)

/-- `SETDRAWMODE` of image or text, through the host's map `DRAWMODE_CODE` (R93). -/
def setDrawModeText (text : Bool) : Instr := .setDrawMode (Config.drawModeCode text)

/-! Assembler text (R66). -/

/-- What one line spells. -/
inductive AsmItem where
  /-- an empty line, or one with a comment only -/
  | nothing
  /-- a request, or `RD a` -/
  | action (a : HostAction)
  /-- a pseudo-instruction -/
  | pseudo (p : Pseudo)
  deriving DecidableEq, Repr

/-- The words of a line: blanks and commas separate, `;` starts a comment. `w` is the word read so far, last
character first. -/
def asmWords : List Char → List Char → List (List Char)
  | w, [] => if w.isEmpty then [] else [w.reverse]
  | w, ch :: rest =>
    if ch = ';' then (if w.isEmpty then [] else [w.reverse])
    else if ch = ' ' ∨ ch = '\t' ∨ ch = ',' then
      if w.isEmpty then asmWords [] rest else w.reverse :: asmWords [] rest
    else asmWords (ch :: w) rest

/-- The value of a digit, decimal or hex. -/
def digitValue (ch : Char) : Option Nat :=
  let n := ch.toNat
  if 48 ≤ n ∧ n ≤ 57 then some (n - 48)
  else if 97 ≤ n ∧ n ≤ 102 then some (n - 87)
  else if 65 ≤ n ∧ n ≤ 70 then some (n - 55)
  else none

/-- The number that digits spell in a base, after `acc`. -/
def asmDigits (base acc : Nat) : List Char → Option Nat
  | [] => some acc
  | ch :: rest =>
    match digitValue ch with
    | some d => if d < base then asmDigits base (base * acc + d) rest else none
    | none => none

/-- A number, decimal or `0x` hex (R66). -/
def asmNat : List Char → Option Nat
  | [] => none
  | ['0', 'x'] => none
  | '0' :: 'x' :: digits => asmDigits 16 0 digits
  | digits => asmDigits 10 0 digits

/-- A number below 2^w. -/
def asmBits (w : Nat) (word : List Char) : Option (BitVec w) :=
  match asmNat word with
  | some n => if n < 2 ^ w then some (BitVec.ofNat w n) else none
  | none => none

/-- A one-bit operand, 0 or 1. -/
def asmFlag (word : List Char) : Option Bool :=
  match asmNat word with
  | some 0 => some false
  | some 1 => some true
  | _ => none

/-- The bytes that pairs of hex digits spell. -/
def asmHexBytes : List Char → Option (List Byte)
  | [] => some []
  | [_] => none
  | hi :: lo :: rest =>
    match asmDigits 16 0 [hi, lo], asmHexBytes rest with
    | some b, some bytes => some (BitVec.ofNat 8 b :: bytes)
    | _, _ => none

/-- A row: `ink:zeros`, `ink:ones`, or `ink:` and 96 hex digits, the 48 bytes of `pack(ink)` in byte order (R66). -/
def asmInk : List Char → Option Ink
  | 'i' :: 'n' :: 'k' :: ':' :: rest =>
    if rest = "zeros".toList then some 0
    else if rest = "ones".toList then some (BitVec.allOnes 384)
    else
      match asmHexBytes rest with
      | some bytes => if bytes.length = Config.rowBytes then some (unpack bytes) else none
      | none => none
  | _ => none

/-- A form with a byte operand. -/
def asmByteForm (form : Byte → Instr) (word : List Char) : Option AsmItem :=
  (asmBits 8 word).map fun b => .action (present (form b))

/-- The first word of a line, as the mnemonic it is, with its operands (R66, R67). -/
def asmForm (mnemonic : String) (operands : List (List Char)) : Option AsmItem :=
  match operands with
  | [] =>
    ([Instr.printRaw, .getStatus, .latticeStart, .latticeEnd, .getInfo, .updateDev, .setWifi, .flowStart,
      .flowStop, .printRle, .crcClr, .statClr].find? fun i => mnemonicOf i == mnemonic).elim
      (if mnemonic == "PRINT" then some (.pseudo .print) else none)
      fun i => some (.action (present i))
  | w :: more =>
    if mnemonic == "CRC.BUF" then
      ((w :: more).mapM (asmBits 8)).map fun bytes => .pseudo (.crcBuf bytes)
    else
      match more with
      | [] =>
        if mnemonic == "FEED.REV" then asmByteForm .feedRev w
        else if mnemonic == "FEED.FWD" then asmByteForm .feedFwd w
        else if mnemonic == "SETQUALITY" then asmByteForm .setQuality w
        else if mnemonic == "SETENERGY" then (asmBits 16 w).map fun e => .action (present (.setEnergy e))
        else if mnemonic == "DEVICEID" then asmByteForm .deviceId w
        else if mnemonic == "SETSPEED" then asmByteForm .setSpeed w
        else if mnemonic == "SETDRAWMODE" then asmByteForm .setDrawMode w
        else if mnemonic == "CRC.UPD" then asmByteForm .crcUpd w
        else if mnemonic == "CAP.SET" then (asmFlag w).map fun c => .action (present (.capSet c))
        else if mnemonic == "RD" then (asmBits 8 w).map fun a => .action (.read a)
        else if mnemonic == "LATTICE" then
          if w = "start".toList then some (.pseudo (.lattice true))
          else if w = "end".toList then some (.pseudo (.lattice false)) else none
        else if mnemonic == "FLOW" then
          if w = "start".toList then some (.pseudo (.flow true))
          else if w = "stop".toList then some (.pseudo (.flow false)) else none
        else none
      | [w2] =>
        if mnemonic == "LINE.ENC" then
          match asmFlag w, asmInk w2 with
          | some c, some ink => some (.action (presentRow c ink))
          | _, _ => none
        else if mnemonic == "PRINTROW" then
          match asmFlag w, asmInk w2 with
          | some c, some ink => some (.pseudo (.printRow c ink))
          | _, _ => none
        else if mnemonic == "FEED" then
          if w = "fwd".toList then (asmBits 8 w2).map fun n => .pseudo (.feed true n)
          else if w = "rev".toList then (asmBits 8 w2).map fun n => .pseudo (.feed false n) else none
        else none
      | _ => none

/-- One line of assembler text (R66); none where it spells nothing of R61, R66 or R67. -/
def asmLine (line : String) : Option AsmItem :=
  match asmWords [] line.toList with
  | [] => some .nothing
  | m :: operands => asmForm (String.ofList m) operands

end Sys2Proof.Machine
end

