-- ==== Sys2Proof/WellFormed.lean ====
section
/-! DEFINITION. When the fields of a request word spell a request form: the must-be-zero bits of
spec/30_encoding.md R53, said form by form from R51, R52 and R55 and not by the decoder's order of checks.
An `Instr` itself needs no check: each operand has exactly the type of its field (Syntax.lean), so every
term of it is well-formed. -/

namespace Sys2Proof.ReqFields

/-- The fields are of class k. -/
def isKind (k : ReqKind) (f : ReqFields) : Bool := f.kind == k.bits

/-- A FRAME-class word whose `OP` is the wire opcode of o. -/
def isFrame (o : WireOp) (f : ReqFields) : Bool := f.isKind .frame && f.op == o.code

/-- The check of `RSVD` (R53). -/
def rsvdOk (f : ReqFields) : Bool := f.rsvd == 0

/-- The check of `OP`: an assigned wire opcode for FRAME (R60), 0x00 for LINE and CRC, 0x00 or 0x01 for
CTRL (R52). -/
def opOk (f : ReqFields) : Bool :=
  (f.isKind .frame && WireOp.all.any fun o => f.op == o.code) ||
  ((f.isKind .line || f.isKind .crc) && f.op == 0x00#8) ||
  (f.isKind .ctrl && (f.op == 0x00#8 || f.op == 0x01#8))

/-- R51 gives `SEL` a meaning: MagicLattice, FlowControl, `LINE.ENC`, the CRC class and `CAP.SET`. -/
def selMeans (f : ReqFields) : Bool :=
  f.isFrame .magicLattice || f.isFrame .flowControl || f.isKind .line || f.isKind .crc ||
  (f.isKind .ctrl && f.op == 0x01#8)

/-- The check of `SEL` (R53): 0 where R51 gives it no meaning. -/
def selOk (f : ReqFields) : Bool := f.selMeans || !f.sel

/-- The form has a one-byte operand in `ARG[7:0]` (R55). -/
def hasByteOperand (f : ReqFields) : Bool :=
  f.isFrame .feedReverse || f.isFrame .feedForward || f.isFrame .setQuality || f.isFrame .deviceId ||
  f.isFrame .setSpeed || f.isFrame .setDrawingMode || (f.isKind .crc && f.sel)

/-- The check of `ARG` (R53): every bit that R55 does not use is 0. -/
def argOk (f : ReqFields) : Bool :=
  f.isFrame .setEnergy || (f.hasByteOperand && f.arg.extractLsb' 8 8 == 0) || f.arg == 0

/-- The fields spell a request form. -/
def wellFormed (f : ReqFields) : Bool := f.rsvdOk && f.opOk && f.selOk && f.argOk

end Sys2Proof.ReqFields
end

