-- ==== Sys2Proof/Safety.lean ====
section
/-! DEFINITION. What counts as a safe state and a safe step of the block: the invariants of spec/10_state.md R21
and R30, of spec/41_frame.md R94, of spec/60_exceptions.md R114, and the canonical form of the line buffer. -/

namespace Sys2Proof.Machine

/-- The 48 bytes of `LINE_BUF`, index 0 first (R24). -/
def lineBytes (s : State) : List Byte := (List.range Config.rowBytes).map s.lineBuf.read

/-- `STATUS` (R21): `CODE` takes only the values 0 to 4, and is 0 exactly when `ERR` = 0. -/
def StatusOk (s : State) : Prop :=
  s.statusCode.toNat ≤ 4 ∧ (s.statusErr = false ↔ s.statusCode = 0#3)

/-- Case (a) of R30: the reset state of the LINE group. -/
def LineBlank (s : State) : Prop :=
  s.lineValid = false ∧ s.lineComp = false ∧ s.lineLen = 0#6 ∧
    lineBytes s = List.replicate Config.rowBytes 0x00#8

/-- Case (b) of R30: the packed form of the last row encoded. -/
def LinePacked (s : State) : Prop :=
  s.lineValid = true ∧ s.lineComp = false ∧ s.lineLen = 48#6 ∧ lineBytes s = pack s.row

/-- Case (c) of R30: the run-length stream of the last row encoded, then zeros. -/
def LineCompressed (s : State) : Prop :=
  s.lineValid = true ∧ s.lineComp = true ∧ 4 ≤ s.lineLen.toNat ∧ s.lineLen.toNat ≤ Config.rowBytes ∧
    (lineBytes s).take s.lineLen.toNat = rle s.row ∧
    (lineBytes s).drop s.lineLen.toNat = List.replicate (Config.rowBytes - s.lineLen.toNat) 0x00#8

/-- The LINE group satisfies one of the cases of R30. Their flags exclude each other. -/
def LineOk (s : State) : Prop := LineBlank s ∨ LinePacked s ∨ LineCompressed s

/-- The shape of R94: 0x51 0x78, one of the 15 wire opcodes, 0x00, the payload length, 0x00, the payload, its
checksum, 0xFF; the length is `byte[4] + 8`. -/
def FrameShape (f : List Byte) : Prop :=
  8 ≤ f.length ∧
  f[0]? = some 0x51#8 ∧ f[1]? = some 0x78#8 ∧
  (∃ o : WireOp, f[2]? = some o.code) ∧
  f[3]? = some 0x00#8 ∧
  (∃ n : Byte, f[4]? = some n ∧ f.length = n.toNat + 8) ∧
  f[5]? = some 0x00#8 ∧
  f[f.length - 2]? = some (crc8 ((f.take (f.length - 2)).drop 6)) ∧
  f[f.length - 1]? = some 0xFF#8

/-- The bytes are whole frames of the shape of R94, one after the other (R38, R94). -/
def WholeFrames (bytes : List Byte) : Prop :=
  ∃ frames : List (List Byte), (∀ f ∈ frames, FrameShape f) ∧ bytes = frames.flatten

/-- Every completion code given is one of 0 to 4 (R114). -/
def RspOk (s : State) : Prop := ∀ r ∈ s.rsp, r.toNat ≤ 4

/-- The model's invariant: what holds between requests, in every state a run from reset reaches. -/
structure Inv (s : State) : Prop where
  status : StatusOk s
  line   : LineOk s
  mem    : s.lineBuf.wf
  out    : WholeFrames s.out
  sent   : s.out <:+ s.sent
  rsp    : RspOk s

/-- The request a step completes, if the step completes one: the outstanding one, or the host's next action where
it is a request, unless the environment's sample is `wait` or `rst`, or the samples are exhausted, downstream is stuck
and the request would emit a byte. -/
def completedRequest (s : State) : Option Request :=
  match s.env with
  | .wait :: _ => none
  | .rst :: _ => none
  | .go :: _ => nextRequest s
  | [] => if s.downstreamStuck then (nextRequest s).filter fun r => emitted r s == [] else nextRequest s

/-- n steps, stopping at the first fault or refusal. -/
def runFor : Nat → State → Host.Outcome State Fault Refusal
  | 0, s => .next s
  | n + 1, s =>
    match step s with
    | .next t => runFor n t
    | .fault f => .fault f
    | .refused r => .refused r

/-- A safe step: the machine goes on, with neither a fault nor a refusal. -/
def SafeStep (s : State) : Prop := ∃ t, step s = .next t

end Sys2Proof.Machine
end

