-- ==== Sys2Proof/Certificates/Slice0/Obligations.lean ====
section
/-! DEFINITION. The statements about the block, each `def Obligations.<Name> : Prop`. The shapes that several of
them share are named first, in `Sys2Proof.Claims`. -/

namespace Sys2Proof.Claims

open Sys2Proof.Machine

/-- The bytes of a frame, written out (R56, R75). -/
def frameBytes (op : Byte) (p : List Byte) : List Byte :=
  [0x51#8, 0x78#8, op, 0x00#8, BitVec.ofNat 8 p.length, 0x00#8] ++ p ++ [crc8 p, 0xFF#8]

/-- s after a request has emitted bytes and answered success: nothing else has changed. -/
def afterEmit (bytes : List Byte) (s : State) : State :=
  { s with out := s.out ++ bytes, sent := s.sent ++ bytes, rsp := s.rsp ++ [0#3] }

/-- s after a request has ended in error with a code (R116): nothing else has changed. -/
def afterError (code : Rsp) (s : State) : State :=
  { s with
    statusErr := true
    statusCode := if s.statusErr then s.statusCode else code
    rsp := s.rsp ++ [code] }

/-- From every state the instruction completes, emits exactly these bytes, and changes nothing else. -/
def Emits (i : Instr) (bytes : List Byte) : Prop := ∀ s, exec i s = .next (afterEmit bytes s)

/-- The word is the instruction's encoding, and decodes to it. -/
def Spells (w : Word) (i : Instr) : Prop := encode i = w ∧ decode w = .ok i

/-- In every state and with every row on INK, the step that runs the word ends in error with the code. -/
def Rejects (w : Word) (code : Rsp) : Prop :=
  ∀ (s : State) (ink : Ink), step (s.offer w ink) = .next (afterError code { s with outstanding := none, ink := ink })

/-- The word is of the class and has this `OP`. -/
def HasKindOp (w : Word) (kind : BitVec 2) (op : Byte) : Prop := (fieldsOf w).kind = kind ∧ (fieldsOf w).op = op

/-- A frame form with a one-byte operand in `W[23:16]`: its words, its frames for every operand, and its illegal
words (`W[31:24]` ≠ 0, `SEL` ≠ 0 or `RSVD` ≠ 0). -/
def ByteForm (op : Byte) (form : Byte → Instr) (payload : Byte → List Byte) : Prop :=
  (∀ b : Byte, Spells (b.setWidth 32 <<< 16 ||| op.setWidth 32 <<< 8) (form b)) ∧
  (∀ b, Emits (form b) (frameBytes op (payload b))) ∧
  (∀ w, HasKindOp w 0#2 op →
    (w.extractLsb' 24 8 ≠ 0 ∨ (fieldsOf w).sel = true ∨ (fieldsOf w).rsvd ≠ 0) → Rejects w 1#3)

/-- A frame form without operand and selector: its word, its frame, and its illegal words. -/
def PlainForm (op : Byte) (i : Instr) (payload : List Byte) : Prop :=
  Spells (op.setWidth 32 <<< 8) i ∧
  Emits i (frameBytes op payload) ∧
  (∀ w, HasKindOp w 0#2 op →
    ((fieldsOf w).arg ≠ 0 ∨ (fieldsOf w).sel = true ∨ (fieldsOf w).rsvd ≠ 0) → Rejects w 1#3)

/-- A frame form that `SEL` selects: its word, its frame, and its illegal words (`ARG` ≠ 0 or `RSVD` ≠ 0). -/
def SelForm (op : Byte) (sel : Bool) (i : Instr) (payload : List Byte) : Prop :=
  Spells (op.setWidth 32 <<< 8 ||| if sel then 4#32 else 0#32) i ∧
  Emits i (frameBytes op payload) ∧
  (∀ w, HasKindOp w 0#2 op → (fieldsOf w).sel = sel →
    ((fieldsOf w).arg ≠ 0 ∨ (fieldsOf w).rsvd ≠ 0) → Rejects w 1#3)

/-- The instruction is one of the 17 frame forms (KIND = FRAME, R50). -/
def IsFrameForm (i : Instr) : Prop := i.fields.kind = 0b00#2

/-- A print form. -/
def IsPrint (i : Instr) : Prop := i = .printRaw ∨ i = .printRle

/-- `LINE_BUF[0 .. LEN-1]` (R78). -/
def linePrefix (s : State) : List Byte := (List.range s.lineLen.toNat).map s.lineBuf.read

/-- The outcome with a function applied to its next state. -/
def mapNext (f : State → State) : Host.Outcome State Fault Refusal → Host.Outcome State Fault Refusal
  | .next t => .next (f t)
  | .fault r => .fault r
  | .refused r => .refused r

/-- A sequence of instructions, each run from the state the one before it left. -/
def execAll : List Instr → State → Host.Outcome State Fault Refusal
  | [], s => .next s
  | i :: is, s =>
    match exec i s with
    | .next t => execAll is t
    | .fault r => .fault r
    | .refused r => .refused r

/-- The step completes a request that decodes to the instruction. -/
def Completes (s : State) (i : Instr) : Prop := ∃ r, completedRequest s = some r ∧ decode r.word = .ok i

/-- The step is the arrival of `RST`. -/
def ResetArrives (s : State) : Prop := s.env.head? = some .rst

/-- Alternating rows (L1-3 of 95_test_vectors.md): ink at even pixels only, at odd pixels only. -/
def evenRow : Ink := inkOf fun x => x % 2 == 0
def oddRow : Ink := inkOf fun x => x % 2 == 1

/-- The only row with ink at pixel x alone. -/
def onePixel (x : Nat) : Ink := inkOf fun y => y == x

/-- Ink at the first n pixels. -/
def firstPixels (n : Nat) : Ink := inkOf fun x => decide (x < n)

/-- b · x^8 without carries: the product of polynomial `0x107` (x^8 + x^2 + x + 1) with q, as 16 bits (R71 (d)). -/
def timesPolynomial (q : Byte) : BitVec 16 :=
  (List.range 8).foldl (fun acc j => if q.getLsbD j then acc ^^^ (0x107#16 <<< j) else acc) 0#16

end Sys2Proof.Claims

open Sys2Proof Sys2Proof.Machine Sys2Proof.Claims

/-! ## Encodings (30_encoding.md) -/

/-- Decoding the word of an instruction gives the instruction back, with every operand at every value. -/
def Obligations.DecodeOfEncodeIsIdentity : Prop := ∀ i : Instr, decode (encode i) = .ok i

/-- A word that decodes is the encoding of what it decodes to: no bit of a legal word is ignored (R53: "The block
never ignores such a bit"). -/
def Obligations.LegalWordIsTheEncodingOfItsInstruction : Prop :=
  ∀ (w : Word) (i : Instr), decode w = .ok i → encode i = w

/-- R61: the 22 rows; the columns KIND, SEL, OP and operand of each form's word; a word decodes to a form exactly when
it selects the form's row and carries its operand; no two rows match one word; a word that matches no row
is an error. -/
def Obligations.RequestFormsFollowTheTable : Prop :=
  requestTable.length = 22 ∧
  (∀ i : Instr, i.row ∈ requestTable ∧ fieldsOf (encode i) = i.fields) ∧
  (∀ (w : Word) (i : Instr), decode w = .ok i ↔ i.row.selects w = true ∧ fieldsOf w = i.fields) ∧
  (∀ (w : Word) (r q : FormRow), r ∈ requestTable → q ∈ requestTable →
    r.selects w = true → q.selects w = true → r = q) ∧
  (∀ w : Word, (∀ r ∈ requestTable, r.selects w = false) ↔ ∃ k, decode w = .error k)

/-- The must-be-zero bits of R53, said form by form, are exactly what the decoder demands of a word with an assigned
`OP`. -/
def Obligations.DecodeSucceedsExactlyOnWellFormedFields : Prop :=
  ∀ w : Word, (∃ i, decode w = .ok i) ↔ (fieldsOf w).wellFormed = true

/-- R62: a word that matches no row of the table emits nothing and changes nothing but `STATUS` (and answers on
`RSP`), with the code of its class; the 241 unassigned values of `OP`. -/
def Obligations.IllegalWordsAnswerTheCodeOfTheirClass : Prop :=
  (∀ w : Word, (∀ r ∈ requestTable, r.selects w = false) →
    if (fieldsOf w).rsvd ≠ 0 then Rejects w 1#3
    else if (fieldsOf w).kind = 0b00#2 ∧ WireOp.ofByte? (fieldsOf w).op = none then Rejects w 2#3
    else Rejects w 1#3) ∧
  (∀ w : Word, (fieldsOf w).rsvd ≠ 0 → Rejects w 1#3) ∧
  (∀ w : Word, (fieldsOf w).rsvd = 0 → (fieldsOf w).kind = 0b00#2 → WireOp.ofByte? (fieldsOf w).op = none →
    Rejects w 2#3) ∧
  (∀ w : Word, (fieldsOf w).kind = 0b11#2 → 2 ≤ (fieldsOf w).op.toNat → Rejects w 1#3) ∧
  (∀ w : Word, (fieldsOf w).opOk = true → (fieldsOf w).wellFormed = false → Rejects w 1#3) ∧
  ((List.range 256).filter fun n => (WireOp.ofByte? (BitVec.ofNat 8 n)).isNone) =
    List.range' 0x00 160 ++ [0xA5, 0xA7, 0xAB, 0xAC, 0xAD] ++ List.range' 0xB0 11 ++ [0xBC] ++ List.range' 0xC0 64 ∧
  160 + 5 + 11 + 1 + 64 = 241

/-- R115: when several causes apply, the first one of the list is reported. -/
def Obligations.FirstCauseIsReported : Prop :=
  (∀ w : Word, (fieldsOf w).rsvd ≠ 0 → decode w = .error .rsvd) ∧
  (∀ w : Word, (fieldsOf w).rsvd = 0 → (fieldsOf w).kind = 0b00#2 → WireOp.ofByte? (fieldsOf w).op = none →
    decode w = .error .opcode) ∧
  (∀ w : Word, (fieldsOf w).rsvd = 0 →
    ¬ ((fieldsOf w).kind = 0b00#2 ∧ WireOp.ofByte? (fieldsOf w).op = none) →
    (fieldsOf w).wellFormed = false → decode w = .error .rsvd) ∧
  (∀ (i : Instr) (s : State), IsPrint i → s.lineValid = false → exec i s = .next (afterError 3#3 s)) ∧
  (∀ s : State, s.lineValid = true → s.lineComp = true → exec .printRaw s = .next (afterError 4#3 s)) ∧
  (∀ s : State, s.lineValid = true → s.lineComp = false → exec .printRle s = .next (afterError 4#3 s)) ∧
  Rejects 0x0000A508#32 1#3 ∧ Rejects 0x0100A200#32 1#3

/-- Words written out bit by bit from R61 (the operands are those of 95_test_vectors.md) decode to the instruction they
stand for. -/
def Obligations.WrittenOutWordsDecode : Prop :=
  decode 0b00000000000010101010000100000000#32 = .ok (.feedFwd 10#8) ∧
  decode 0b00010010001101001010111100000000#32 = .ok (.setEnergy 0x1234#16) ∧
  decode 0b00000000000000001010011000000100#32 = .ok .latticeEnd ∧
  decode 0b00000000000000000000000000000101#32 = .ok (.lineEnc true) ∧
  decode 0b00000000001100010000000000000110#32 = .ok (.crcUpd 0x31#8) ∧
  decode 0b00000000000000000000000100000111#32 = .ok (.capSet true)

/-! ## Frames (41_frame.md) -/

/-- R76, R77: the feed forms. -/
def Obligations.FeedFormsCarryLengthThenZero : Prop :=
  ByteForm 0xA0#8 .feedRev (fun n => [n, 0x00#8]) ∧
  ByteForm 0xA1#8 .feedFwd (fun n => [n, 0x00#8]) ∧
  crc8 [0x00#8, 0x00#8] = 0x00#8 ∧
  Emits (.feedRev 10#8) [0x51#8, 0x78#8, 0xA0#8, 0x00#8, 0x02#8, 0x00#8, 0x0A#8, 0x00#8, 0x82#8, 0xFF#8] ∧
  Emits (.feedFwd 10#8) [0x51#8, 0x78#8, 0xA1#8, 0x00#8, 0x02#8, 0x00#8, 0x0A#8, 0x00#8, 0x82#8, 0xFF#8] ∧
  Emits (.feedFwd 0#8) [0x51#8, 0x78#8, 0xA1#8, 0x00#8, 0x02#8, 0x00#8, 0x00#8, 0x00#8, 0x00#8, 0xFF#8] ∧
  Emits (.feedFwd 255#8) [0x51#8, 0x78#8, 0xA1#8, 0x00#8, 0x02#8, 0x00#8, 0xFF#8, 0x00#8, 0xD7#8, 0xFF#8]

/-- R81, R85, R86: the forms with a single zero byte. -/
def Obligations.QueryFormsCarryASingleZeroByte : Prop :=
  PlainForm 0xA3#8 .getStatus [0x00#8] ∧ PlainForm 0xA8#8 .getInfo [0x00#8] ∧
  PlainForm 0xA9#8 .updateDev [0x00#8] ∧
  Emits .getStatus [0x51#8, 0x78#8, 0xA3#8, 0x00#8, 0x01#8, 0x00#8, 0x00#8, 0x00#8, 0xFF#8] ∧
  Emits .getInfo [0x51#8, 0x78#8, 0xA8#8, 0x00#8, 0x01#8, 0x00#8, 0x00#8, 0x00#8, 0xFF#8] ∧
  Emits .updateDev [0x51#8, 0x78#8, 0xA9#8, 0x00#8, 0x01#8, 0x00#8, 0x00#8, 0x00#8, 0xFF#8]

/-- R82, R91, R92, R93: the forms that carry their operand byte as given. -/
def Obligations.SettingFormsCarryTheirByteAsGiven : Prop :=
  ByteForm 0xA4#8 .setQuality (fun b => [b]) ∧ ByteForm 0xBB#8 .deviceId (fun b => [b]) ∧
  ByteForm 0xBD#8 .setSpeed (fun b => [b]) ∧ ByteForm 0xBE#8 .setDrawMode (fun b => [b]) ∧
  Emits (.setQuality 0x33#8) [0x51#8, 0x78#8, 0xA4#8, 0x00#8, 0x01#8, 0x00#8, 0x33#8, 0x99#8, 0xFF#8] ∧
  Emits (.deviceId 0x05#8) [0x51#8, 0x78#8, 0xBB#8, 0x00#8, 0x01#8, 0x00#8, 0x05#8, 0x1B#8, 0xFF#8] ∧
  Emits (.setSpeed 0x00#8) [0x51#8, 0x78#8, 0xBD#8, 0x00#8, 0x01#8, 0x00#8, 0x00#8, 0x00#8, 0xFF#8] ∧
  Emits (.setSpeed 0x20#8) [0x51#8, 0x78#8, 0xBD#8, 0x00#8, 0x01#8, 0x00#8, 0x20#8, 0xE0#8, 0xFF#8] ∧
  Emits (.setDrawMode 0x01#8) [0x51#8, 0x78#8, 0xBE#8, 0x00#8, 0x01#8, 0x00#8, 0x01#8, 0x07#8, 0xFF#8]

/-- R83, R84: the lattice markers. -/
def Obligations.LatticeFormsEmitTheFixedPatterns : Prop :=
  SelForm 0xA6#8 false .latticeStart
    [0xAA#8, 0x55#8, 0x17#8, 0x38#8, 0x44#8, 0x5F#8, 0x5F#8, 0x5F#8, 0x44#8, 0x38#8, 0x2C#8] ∧
  SelForm 0xA6#8 true .latticeEnd
    [0xAA#8, 0x55#8, 0x17#8, 0x00#8, 0x00#8, 0x00#8, 0x00#8, 0x00#8, 0x00#8, 0x00#8, 0x17#8] ∧
  Emits .latticeStart [0x51#8, 0x78#8, 0xA6#8, 0x00#8, 0x0B#8, 0x00#8, 0xAA#8, 0x55#8, 0x17#8, 0x38#8, 0x44#8, 0x5F#8,
    0x5F#8, 0x5F#8, 0x44#8, 0x38#8, 0x2C#8, 0xA1#8, 0xFF#8] ∧
  Emits .latticeEnd [0x51#8, 0x78#8, 0xA6#8, 0x00#8, 0x0B#8, 0x00#8, 0xAA#8, 0x55#8, 0x17#8, 0x00#8, 0x00#8, 0x00#8,
    0x00#8, 0x00#8, 0x00#8, 0x00#8, 0x17#8, 0x11#8, 0xFF#8]

/-- R88, R89: flow control. -/
def Obligations.FlowFormsEmitTheirFlagByte : Prop :=
  SelForm 0xAE#8 false .flowStart [0x00#8] ∧ SelForm 0xAE#8 true .flowStop [0x10#8] ∧
  Emits .flowStart [0x51#8, 0x78#8, 0xAE#8, 0x00#8, 0x01#8, 0x00#8, 0x00#8, 0x00#8, 0xFF#8] ∧
  Emits .flowStop [0x51#8, 0x78#8, 0xAE#8, 0x00#8, 0x01#8, 0x00#8, 0x10#8, 0x70#8, 0xFF#8]

/-- R87: SetWifi, the one form with an empty payload; every other frame emitted in a state of R30 is longer. -/
def Obligations.SetWifiEmitsTheOneEmptyPayload : Prop :=
  PlainForm 0xAA#8 .setWifi [] ∧ crc8 [] = 0x00#8 ∧
  Emits .setWifi [0x51#8, 0x78#8, 0xAA#8, 0x00#8, 0x00#8, 0x00#8, 0x00#8, 0xFF#8] ∧
  (∀ (i : Instr) (s t : State), LineOk s → i ≠ .setWifi → exec i s = .next t →
    t.out = s.out ∨ s.out.length + 8 < t.out.length)

/-- R90: the energy, low byte first. -/
def Obligations.SetEnergyEmitsLittleEndian : Prop :=
  (∀ e : BitVec 16, Spells (e.setWidth 32 <<< 16 ||| 0x0000AF00#32) (.setEnergy e)) ∧
  (∀ e : BitVec 16, Emits (.setEnergy e) (frameBytes 0xAF#8 [e.extractLsb' 0 8, e.extractLsb' 8 8])) ∧
  (∀ w, HasKindOp w 0#2 0xAF#8 → ((fieldsOf w).sel = true ∨ (fieldsOf w).rsvd ≠ 0) → Rejects w 1#3) ∧
  Emits (.setEnergy 0#16) [0x51#8, 0x78#8, 0xAF#8, 0x00#8, 0x02#8, 0x00#8, 0x00#8, 0x00#8, 0x00#8, 0xFF#8] ∧
  Emits (.setEnergy 0xFFFF#16) [0x51#8, 0x78#8, 0xAF#8, 0x00#8, 0x02#8, 0x00#8, 0xFF#8, 0xFF#8, 0x24#8, 0xFF#8] ∧
  Emits (.setEnergy 0x1234#16) [0x51#8, 0x78#8, 0xAF#8, 0x00#8, 0x02#8, 0x00#8, 0x34#8, 0x12#8, 0xD3#8, 0xFF#8]

/-- R79 with the checks of R78: `PRINT.RAW`. The premise `LEN` ≤ 48 rules out states no run reaches (R30). -/
def Obligations.PrintRawEmitsThePackedLine : Prop :=
  Spells 0x0000A200#32 .printRaw ∧
  (∀ s : State, s.lineValid = true → s.lineComp = false → s.lineLen.toNat ≤ 48 →
    exec .printRaw s = .next (afterEmit (frameBytes 0xA2#8 (linePrefix s)) s)) ∧
  (∀ s : State, s.lineValid = false → exec .printRaw s = .next (afterError 3#3 s)) ∧
  (∀ s : State, s.lineValid = true → s.lineComp = true → exec .printRaw s = .next (afterError 4#3 s)) ∧
  (∀ w, HasKindOp w 0#2 0xA2#8 →
    ((fieldsOf w).arg ≠ 0 ∨ (fieldsOf w).sel = true ∨ (fieldsOf w).rsvd ≠ 0) → Rejects w 1#3) ∧
  (∀ s : State, LineOk s → s.lineValid = true → s.lineComp = false →
    linePrefix s = lineBytes s ∧ (frameBytes 0xA2#8 (linePrefix s)).length = 56 ∧
    (frameBytes 0xA2#8 (linePrefix s))[4]? = some 0x30#8) ∧
  crc8 (List.replicate 48 0x00#8) = 0x00#8 ∧
  (∀ s t : State, s.ink = evenRow → exec (.lineEnc true) s = .next t →
    exec .printRaw t = .next (afterEmit ([0x51#8, 0x78#8, 0xA2#8, 0x00#8, 0x30#8, 0x00#8] ++
      List.replicate 48 0x55#8 ++ [0xA5#8, 0xFF#8]) t))

/-- R80 with the checks of R78: `PRINT.RLE`. -/
def Obligations.PrintRleEmitsTheRunLengthStream : Prop :=
  Spells 0x0000BF00#32 .printRle ∧
  (∀ s : State, s.lineValid = true → s.lineComp = true → s.lineLen.toNat ≤ 48 →
    exec .printRle s = .next (afterEmit (frameBytes 0xBF#8 (linePrefix s)) s)) ∧
  (∀ s : State, s.lineValid = false → exec .printRle s = .next (afterError 3#3 s)) ∧
  (∀ s : State, s.lineValid = true → s.lineComp = false → exec .printRle s = .next (afterError 4#3 s)) ∧
  (∀ w, HasKindOp w 0#2 0xBF#8 →
    ((fieldsOf w).arg ≠ 0 ∨ (fieldsOf w).sel = true ∨ (fieldsOf w).rsvd ≠ 0) → Rejects w 1#3) ∧
  (∀ s : State, LineOk s → s.lineValid = true → s.lineComp = true →
    4 ≤ s.lineLen.toNat ∧ s.lineLen.toNat ≤ 48 ∧
    (s.lineLen.toNat = 48 → (frameBytes 0xBF#8 (linePrefix s)).length = 56)) ∧
  (∀ s t : State, s.ink = 0 → s.cap = true → exec (.lineEnc true) s = .next t →
    exec .printRle t = .next (afterEmit [0x51#8, 0x78#8, 0xBF#8, 0x00#8, 0x04#8, 0x00#8, 0x7F#8, 0x7F#8, 0x7F#8, 0x03#8,
      0xA8#8, 0xFF#8] t))

/-- R96: a frame request changes `OUT` and answers 0, or emits nothing and changes only `STATUS`; none reads INK, `CRC`
or `CONFIG`, and only the print forms read the LINE group. -/
def Obligations.FrameRequestsTouchOnlyTheirOwnState : Prop :=
  (∀ (i : Instr) (s t : State), IsFrameForm i → exec i s = .next t →
    (∃ bytes, t = afterEmit bytes s) ∨ (∃ code, code ≠ 0#3 ∧ t = afterError code s)) ∧
  (∀ (i : Instr) (s : State) (ink : Ink) (crc : Byte) (cap : Bool), IsFrameForm i →
    exec i { s with ink := ink, crc := crc, cap := cap } =
      mapNext (fun t => { t with ink := ink, crc := crc, cap := cap }) (exec i s)) ∧
  (∀ (i : Instr) (s : State) (v c : Bool) (n : BitVec 6) (m : Memory), IsFrameForm i → ¬ IsPrint i →
    exec i { s with lineValid := v, lineComp := c, lineLen := n, lineBuf := m } =
      mapNext (fun t => { t with lineValid := v, lineComp := c, lineLen := n, lineBuf := m }) (exec i s))

/-- R74: a frame's checksum is `crc8(payload)` from the initial value, whatever `CRC` holds, and leaves `CRC` alone. -/
def Obligations.FrameChecksumIgnoresTheCrcRegister : Prop :=
  ∀ (i : Instr) (s t : State) (crc : Byte), IsFrameForm i → exec i s = .next t →
    exec i { s with crc := crc } = .next { t with crc := crc } ∧ t.crc = s.crc ∧
    (t.out = s.out ∨ ∃ op p, t.out = s.out ++ frameBytes op p)

/-- R57: a frame carries its own length, and a reader delimits it from byte 4 alone, whatever follows it; the
terminator value can stand inside a payload. -/
def Obligations.FramesAreDelimitedByTheirLengthByte : Prop :=
  (∀ (op : Byte) (p rest : List Byte), p.length ≤ 48 →
    (frameBytes op p)[0]? = some 0x51#8 ∧ (frameBytes op p)[1]? = some 0x78#8 ∧
    (frameBytes op p)[4]? = some (BitVec.ofNat 8 p.length) ∧ (BitVec.ofNat 8 p.length).toNat = p.length ∧
    (frameBytes op p)[5]? = some 0x00#8 ∧ (frameBytes op p)[7 + p.length]? = some 0xFF#8 ∧
    (frameBytes op p).length = 8 + p.length ∧
    splitFrame (frameBytes op p ++ rest) = some (frameBytes op p, rest)) ∧
  (∃ p, Emits (.setEnergy 0xFFFF#16) (frameBytes 0xAF#8 p) ∧ 0xFF#8 ∈ p) ∧
  0xFF#8 ∈ rle (BitVec.allOnes 384)

/-- R94: every request that completes emits nothing or one frame of the shape of R94, and what stands in `OUT` stays whole
frames, at every step. -/
def Obligations.EmittedFramesHaveTheFrameShape : Prop :=
  (∀ (r : Request) (s t : State), perform r s = .next t →
    ∃ f, t.out = s.out ++ f ∧ (f = [] ∨ FrameShape f)) ∧
  (∀ s t : State, WholeFrames s.out → step s = .next t → WholeFrames t.out)

/-- R95: every payload has at most 48 bytes (the lattice's 11, the others' but the prints' 0 to 2), and the length byte is
exact. -/
def Obligations.PayloadsNeverExceed48Bytes : Prop :=
  ∀ (i : Instr) (s t : State), exec i s = .next t →
    t.out = s.out ∨ ∃ (o : WireOp) (p : List Byte), t.out = s.out ++ frameBytes o.code p ∧ p.length ≤ 48 ∧
      (i = .latticeStart ∨ i = .latticeEnd → p.length = 11) ∧
      (¬ IsPrint i → i ≠ .latticeStart → i ≠ .latticeEnd → p.length ≤ 2) ∧
      (BitVec.ofNat 8 p.length).toNat = p.length

/-! ## The checksum unit (40_checksum.md) -/

/-- R72: `CRC.CLR`. -/
def Obligations.CrcClrClearsTheAccumulator : Prop :=
  Spells 0x00000002#32 .crcClr ∧
  (∀ s : State, exec .crcClr s = .next { s with crc := 0x00#8, rsp := s.rsp ++ [0#3] }) ∧
  (∀ w, (fieldsOf w).kind = 0b10#2 → (fieldsOf w).sel = false →
    ((fieldsOf w).op ≠ 0 ∨ (fieldsOf w).arg ≠ 0 ∨ (fieldsOf w).rsvd ≠ 0) → Rejects w 1#3)

/-- R73: `CRC.UPD b`, and that clearing and then folding in bytes leaves their checksum. -/
def Obligations.CrcUpdFoldsInOneByte : Prop :=
  (∀ b : Byte, Spells (b.setWidth 32 <<< 16 ||| 0x00000006#32) (.crcUpd b)) ∧
  (∀ (b : Byte) (s : State),
    exec (.crcUpd b) s = .next { s with crc := crc8Step s.crc b, rsp := s.rsp ++ [0#3] }) ∧
  (∀ w, (fieldsOf w).kind = 0b10#2 → (fieldsOf w).sel = true →
    (w.extractLsb' 24 8 ≠ 0 ∨ (fieldsOf w).rsvd ≠ 0) → Rejects w 1#3) ∧
  (∀ (p : List Byte) (s : State), execAll (.crcClr :: p.map .crcUpd) s =
    .next { s with crc := crc8 p, rsp := s.rsp ++ List.replicate (p.length + 1) 0#3 }) ∧
  crc8Step 0x00#8 0x00#8 = 0x00#8 ∧ crc8Step 0x00#8 0x0A#8 = 0x36#8 ∧ crc8Step 0x36#8 0x00#8 = 0x82#8 ∧
  crc8 [0x0A#8, 0x00#8] = 0x82#8

/-- R71: the laws of the checksum function. -/
def Obligations.ChecksumLaws : Prop :=
  crc8 [] = 0x00#8 ∧
  (∀ (p : List Byte) (b : Byte), crc8 (p ++ [b]) = crc8Step (crc8 p) b) ∧
  (∀ n : Nat, crc8 (List.replicate n 0x00#8) = 0x00#8) ∧
  (∀ b : Byte, ∃ q : Byte, b.setWidth 16 <<< 8 = timesPolynomial q ^^^ (crc8Step 0x00#8 b).setWidth 16) ∧
  (∀ b : Byte, crc8Step 0x00#8 b = 0x00#8 ↔ b = 0x00#8) ∧
  (∀ p q : List Byte, p.length = q.length → crc8 (List.zipWith (· ^^^ ·) p q) = crc8 p ^^^ crc8 q) ∧
  crc8 [0x01#8] = 0x07#8 ∧ crc8 [0x02#8] = 0x0E#8 ∧ crc8 [0x0A#8] = 0x36#8 ∧ crc8 [0x10#8] = 0x70#8 ∧
  crc8 [0x80#8] = 0x89#8 ∧ crc8 [0xFF#8] = 0xF3#8

/-! ## The line encoder (42_line.md) -/

/-- R99: `pack` is a bijection between rows and 48 bytes, the little-endian bytes of the INK bus as a number. -/
def Obligations.PackIsABijection : Prop :=
  (∀ ink : Ink, (pack ink).length = 48) ∧
  (∀ (ink : Ink) (x : Nat), x < 384 → inkBit ink x = unpackBit (pack ink) x) ∧
  (∀ ink : Ink, unpack (pack ink) = ink) ∧
  (∀ p : List Byte, p.length = 48 → pack (unpack p) = p) ∧
  (∀ (ink : Ink) (i : Nat), i < 48 → (pack ink)[i]? = some (BitVec.ofNat 8 (ink.toNat / 256 ^ i))) ∧
  pack 0 = List.replicate 48 0x00#8 ∧ pack (BitVec.allOnes 384) = List.replicate 48 0xFF#8 ∧
  pack evenRow = List.replicate 48 0x55#8 ∧ pack oddRow = List.replicate 48 0xAA#8 ∧
  pack (onePixel 0) = 0x01#8 :: List.replicate 47 0x00#8 ∧
  pack (onePixel 7) = 0x80#8 :: List.replicate 47 0x00#8 ∧
  pack (onePixel 8) = 0x00#8 :: 0x01#8 :: List.replicate 46 0x00#8 ∧
  pack (onePixel 383) = List.replicate 47 0x00#8 ++ [0x80#8]

/-- R101: the laws of `rle`. The runs are the maximal runs of the row: not empty, alternating in value, and together the
row. -/
def Obligations.RunLengthLaws : Prop :=
  (∀ ink : Ink,
    (runs (inkRow ink)).flatMap (fun r => List.replicate r.2 r.1) = inkRow ink ∧
    (∀ r ∈ runs (inkRow ink), 1 ≤ r.2) ∧
    (runs (inkRow ink)).IsChain (fun r q => r.1 ≠ q.1) ∧
    (rle ink).length = ((runs (inkRow ink)).map fun r => (r.2 + 126) / 127).sum) ∧
  (∀ ink : Ink, 4 ≤ (rle ink).length ∧ (rle ink).length ≤ 384) ∧
  (∀ (ink : Ink) (c : Byte), c ∈ rle ink → 1 ≤ (c.extractLsb' 0 7).toNat) ∧
  (∀ ink : Ink, (rle ink).IsChain fun c d => c.getLsbD 7 = d.getLsbD 7 → c.extractLsb' 0 7 = 127#7) ∧
  (∀ ink : Ink, ((rle ink).map fun c => (c.extractLsb' 0 7).toNat).sum = 384) ∧
  (rle evenRow).length = 384 ∧
  rle 0 = [0x7F#8, 0x7F#8, 0x7F#8, 0x03#8] ∧ rle (BitVec.allOnes 384) = [0xFF#8, 0xFF#8, 0xFF#8, 0x83#8] ∧
  rle (onePixel 0) = [0x81#8, 0x7F#8, 0x7F#8, 0x7F#8, 0x02#8] ∧
  rle (onePixel 383) = [0x7F#8, 0x7F#8, 0x7F#8, 0x02#8, 0x81#8] ∧
  rle (firstPixels 127) = [0xFF#8, 0x7F#8, 0x7F#8, 0x03#8] ∧
  rle (firstPixels 128) = [0xFF#8, 0x81#8, 0x7F#8, 0x7F#8, 0x02#8] ∧
  rle (firstPixels 192) = [0xFF#8, 0xC1#8, 0x7F#8, 0x41#8]

/-- R102: expanding the run-length stream of a row gives the row back. -/
def Obligations.ExpansionInvertsRunLengthCoding : Prop :=
  (∀ r : List Byte, unrle r = r.flatMap fun c => List.replicate (c.extractLsb' 0 7).toNat (c.getLsbD 7)) ∧
  (∀ ink : Ink, unrle (rle ink) = inkRow ink)

/-- R105 with the selector of R103 and the effective bit of R104: `LINE.ENC c` from every state, every row and both values
of c: what it writes, and that it changes nothing else (reads of `LINE_BUF` at indices the block does not have
included). -/
def Obligations.LineEncWritesTheSelectedLine : Prop :=
  Spells 0x00000001#32 (.lineEnc false) ∧ Spells 0x00000005#32 (.lineEnc true) ∧
  (∀ (c : Bool) (s : State), ∃ (comp : Bool) (len : Nat) (buf : List Byte) (m : Memory),
    exec (.lineEnc c) s = .next { s with
      lineComp := comp, lineLen := BitVec.ofNat 6 len, lineBuf := m, lineValid := true, row := s.ink,
      rsp := s.rsp ++ [0#3] } ∧
    (if c = true ∧ s.cap = true ∧ (rle s.ink).length ≤ 48 then
      comp = true ∧ len = (rle s.ink).length ∧
        buf = rle s.ink ++ List.replicate (48 - (rle s.ink).length) 0x00#8
     else comp = false ∧ len = 48 ∧ buf = pack s.ink) ∧
    buf.length = 48 ∧ len ≤ 48 ∧
    (∀ i, i < 48 → buf[i]? = some (m.read i)) ∧ (∀ i, 48 ≤ i → m.read i = s.lineBuf.read i)) ∧
  (∀ w, (fieldsOf w).kind = 0b01#2 → ((fieldsOf w).op ≠ 0 ∨ (fieldsOf w).arg ≠ 0 ∨ (fieldsOf w).rsvd ≠ 0) →
    Rejects w 1#3) ∧
  48 < (rle evenRow).length ∧
  (∀ s : State, s.cap = true → s.ink = 0 → ∃ t, exec (.lineEnc true) s = .next t ∧
    t.lineComp = true ∧ t.lineLen = 4#6 ∧ t.lineValid = true ∧
    lineBytes t = [0x7F#8, 0x7F#8, 0x7F#8, 0x03#8] ++ List.replicate 44 0x00#8)

/-- R106: what a print request after `LINE.ENC` emits has at most 48 bytes, at most as many as the packed form; a stream of
more than 48 bytes gives the packed row. -/
def Obligations.EncodedLineIsNeverLargerThanPacked : Prop :=
  ∀ (c : Bool) (s t : State), exec (.lineEnc c) s = .next t →
    (∃ p, exec (printForm (lineInfoByte t)) t = .next (afterEmit (frameBytes (if t.lineComp then 0xBF#8 else 0xA2#8) p) t) ∧
      p.length ≤ 48 ∧ p = linePrefix t) ∧
    (t.lineComp = true → t.lineLen.toNat ≤ (pack s.ink).length) ∧
    (48 < (rle s.ink).length → t.lineComp = false ∧ lineBytes t = pack s.ink)

/-- End to end, from R78, R99, R102 and R105: the payload printed after `LINE.ENC` stands for exactly the row on INK,
whichever form was selected, and whatever capability is set in between (R135). -/
def Obligations.PrintedPayloadRecoversTheRow : Prop :=
  ∀ (c cap : Bool) (s t u : State), exec (.lineEnc c) s = .next t → exec (.capSet cap) t = .next u →
    ∃ p, exec (printForm (lineInfoByte u)) u =
        .next (afterEmit (frameBytes (if u.lineComp then 0xBF#8 else 0xA2#8) p) u) ∧
      (if u.lineComp then unrle p = inkRow s.ink else unpack p = s.ink)

/-! ## Control and the read port (43_control.md) -/

/-- R109: `STAT.CLR`. -/
def Obligations.StatClrClearsTheStatus : Prop :=
  Spells 0x00000003#32 .statClr ∧
  (∀ s : State, exec .statClr s =
    .next { s with statusErr := false, statusCode := 0#3, rsp := s.rsp ++ [0#3] }) ∧
  (∀ w, HasKindOp w 3#2 0x00#8 → ((fieldsOf w).sel = true ∨ (fieldsOf w).arg ≠ 0 ∨ (fieldsOf w).rsvd ≠ 0) →
    Rejects w 1#3) ∧
  (∀ w, (fieldsOf w).kind = 3#2 → 2 ≤ (fieldsOf w).op.toNat → Rejects w 1#3) ∧
  (∀ s : State, statusByte s = 0x05#8 → ∃ t, exec .statClr s = .next t ∧ statusByte t = 0x00#8)

/-- R110: `CAP.SET c`. -/
def Obligations.CapSetWritesTheCapability : Prop :=
  Spells 0x00000103#32 (.capSet false) ∧ Spells 0x00000107#32 (.capSet true) ∧
  (∀ (c : Bool) (s : State), exec (.capSet c) s = .next { s with cap := c, rsp := s.rsp ++ [0#3] }) ∧
  (∀ w, HasKindOp w 3#2 0x01#8 → ((fieldsOf w).arg ≠ 0 ∨ (fieldsOf w).rsvd ≠ 0) → Rejects w 1#3) ∧
  configByte State.reset = 0x00#8 ∧
  (∀ s t u : State, exec (.capSet true) s = .next t → configByte t = 0x01#8 ∧
    (t.ink = 0 → exec (.lineEnc true) t = .next u → u.lineComp = true))

/-- R111: the register read port: what every address answers, that a read changes nothing, and that it is held while a
request is outstanding. An idle block answers whatever the environment's sample, `rst` apart, and the record of answers is
the model's (entries 2 and 4). -/
def Obligations.ReadPortAnswersTheRegisterMap : Prop :=
  (∀ s : State,
    readPort 0x00#8 s = s.statusCode.setWidth 8 <<< 1 ||| (if s.statusErr then 1#8 else 0#8) ∧
    readPort 0x01#8 s = s.crc ∧
    readPort 0x02#8 s = (if s.lineComp then 2#8 else 0#8) ||| (if s.lineValid then 1#8 else 0#8) ∧
    readPort 0x03#8 s = s.lineLen.setWidth 8 ∧
    readPort 0x04#8 s = if s.cap then 1#8 else 0#8) ∧
  (∀ (s : State) (i : Nat), i < 48 → readPort (BitVec.ofNat 8 (0x10 + i)) s = s.lineBuf.read i) ∧
  (∀ (s : State) (a : Byte), 4 < a.toNat ∧ a.toNat < 0x10 ∨ 0x3F < a.toNat → readPort a s = 0x00#8) ∧
  (∀ s : State, (readPort 0x00#8 s).extractLsb' 4 4 = 0 ∧ (readPort 0x02#8 s).extractLsb' 2 6 = 0 ∧
    (readPort 0x03#8 s).extractLsb' 6 2 = 0 ∧ (readPort 0x04#8 s).extractLsb' 1 7 = 0) ∧
  (∀ (s : State) (a : Byte) (rest : List HostAction), s.outstanding = none → s.host = .read a :: rest →
    ¬ ResetArrives s →
    step s = .next { s with host := rest, env := s.env.tail, reads := s.reads ++ [readPort a s] }) ∧
  (∀ (s : State) (a b : Byte) (rest : List HostAction),
    readPort a { s with host := rest, reads := s.reads ++ [readPort b s] } = readPort a s) ∧
  (∀ (s t : State) (r : Request), s.outstanding = some r → ¬ ResetArrives s → step s = .next t → t.reads = s.reads) ∧
  (∀ s t u : State, s.ink = 0 → exec (.capSet true) s = .next t → exec (.lineEnc true) t = .next u →
    readPort 0x02#8 u = 0x03#8 ∧ readPort 0x03#8 u = 0x04#8 ∧ readPort 0x10#8 u = 0x7F#8 ∧
    readPort 0x13#8 u = 0x03#8 ∧ readPort 0x14#8 u = 0x00#8 ∧ readPort 0x04#8 u = 0x01#8)

/-- R67: in a state of R30 with a line, the print form that `PRINT` picks from the byte `RD 0x02` answers is the legal one:
it emits the line's frame. -/
def Obligations.PrintPseudoPicksTheLegalForm : Prop :=
  ∀ s : State, LineOk s → s.lineValid = true →
    exec (printForm (readPort 0x02#8 s)) s =
      .next (afterEmit (frameBytes (if s.lineComp then 0xBF#8 else 0xA2#8) (linePrefix s)) s)

/-- R67: `CRC.BUF b0, ..., bk`, presented by the host to an idle block with the environment's samples exhausted, leaves the
checksum of its bytes in `CRC` and emits nothing. One step a request is the model's form (entries 1 and 2); the 0 on INK is
what the model's spelling presents (entry 12). -/
def Obligations.CrcBufLeavesTheChecksumOfItsBytes : Prop :=
  ∀ (bytes : List Byte) (info : Byte) (rest : List HostAction) (s : State),
    s.outstanding = none → s.env = [] → s.host = (Pseudo.crcBuf bytes).expand info ++ rest →
    runFor (bytes.length + 1) s =
      .next { s with crc := crc8 bytes, ink := 0, host := rest,
                     rsp := s.rsp ++ List.replicate (bytes.length + 1) 0#3 }

/-! ## Errors (60_exceptions.md) -/

/-- R116: a request that ends in error does exactly what `Fail` does; every request that completes answers one code, of 0
to 4, and a success leaves `STATUS` alone but for `STAT.CLR`. -/
def Obligations.ErrorEntryDoesExactlyFail : Prop :=
  (∀ (w : Word) (k : ErrCode), decode w = .error k → Rejects w k.code) ∧
  (∀ (r : Request) (s t : State), perform r s = .next t →
    ∃ code : Rsp, t.rsp = s.rsp ++ [code] ∧ code.toNat ≤ 4 ∧
      (code ≠ 0#3 → t = afterError code { s with ink := r.ink }) ∧
      (code = 0#3 → decode r.word ≠ .ok .statClr → t.statusErr = s.statusErr ∧ t.statusCode = s.statusCode))

/-- R118: `STATUS.ERR` stays 1, and `STATUS.CODE` keeps the first error's code, until `STAT.CLR` or reset; a second error
answers its own code on `RSP` and changes nothing else. -/
def Obligations.ErrorStaysUntilClearOrReset : Prop :=
  (∀ s t : State, s.statusErr = true → step s = .next t → ¬ ResetArrives s → ¬ Completes s .statClr →
    t.statusErr = true ∧ t.statusCode = s.statusCode) ∧
  (∀ (r : Request) (s t : State) (code : Rsp), s.statusErr = true → perform r s = .next t →
    t.rsp = s.rsp ++ [code] → code ≠ 0#3 → t = { s with ink := r.ink, rsp := s.rsp ++ [code] })

/-- R19 to R25, R27, for `OUT` R38 and for `RSP` R34: each piece of state has exactly the writers its rule names: a step
changes it only by completing one of them, or by reset. `row` is the model's own record of the last row encoded (entry 6);
`LINE.ENC` alone writes it too. -/
def Obligations.EachRegisterHasItsOwnWriters : Prop :=
  ∀ s t : State, step s = .next t → ¬ ResetArrives s →
    (t.crc ≠ s.crc → Completes s .crcClr ∨ ∃ b, Completes s (.crcUpd b)) ∧
    ((t.lineValid ≠ s.lineValid ∨ t.lineComp ≠ s.lineComp ∨ t.lineLen ≠ s.lineLen ∨ t.lineBuf ≠ s.lineBuf ∨
      t.row ≠ s.row) → ∃ c, Completes s (.lineEnc c)) ∧
    (t.cap ≠ s.cap → ∃ c, Completes s (.capSet c)) ∧
    (t.out ≠ s.out → ∃ i, IsFrameForm i ∧ Completes s i) ∧
    (t.statusErr ≠ s.statusErr ∨ t.statusCode ≠ s.statusCode →
      Completes s .statClr ∨ ∃ r code, completedRequest s = some r ∧ code ≠ 0#3 ∧ t.rsp = s.rsp ++ [code]) ∧
    (t.rsp ≠ s.rsp → ∃ r, completedRequest s = some r)

/-- No instruction is refused, and the one fault is a print of a line whose `LEN` exceeds 48, an index that "cannot
arise" (R35; the model's choice, entry 8). -/
def Obligations.OnlyAnOverlongLineStopsARequest : Prop :=
  ∀ (i : Instr) (s : State),
    (∀ r, exec i s ≠ .refused r) ∧
    (∀ f, exec i s = .fault f ↔ f = .lineIndexOutOfRange ∧ s.lineValid = true ∧ 48 < s.lineLen.toNat ∧
      (i = .printRaw ∧ s.lineComp = false ∨ i = .printRle ∧ s.lineComp = true))

/-! ## The request channel, reset and holds (20_memory.md, 70_reset_and_hazards.md) -/

/-- A step runs the instruction that the presented word decodes to: it is `exec` of it, with INK as sampled, the channel
idle, and the host's list past the request. -/
def Obligations.StepRunsTheDecodedInstruction : Prop :=
  (∀ (s : State) (w : Word) (ink : Ink) (i : Instr), decode w = .ok i →
    step (s.offer w ink) = exec i { s with outstanding := none, ink := ink }) ∧
  (∀ (s : State) (nbits w : Nat) (i : Instr), decodeTableWord nbits w = some i →
    step (s.withFetchWord nbits w) = exec i { s with outstanding := none }) ∧
  (∀ (s : State) (r : Request) (rest : List HostAction) (i : Instr), decode r.word = .ok i →
    s.outstanding = none → s.host = .request r :: rest → s.env = [] →
    (s.downstreamStuck = false ∨ emitted r s = []) →
    step s = exec i { s with host := rest, ink := r.ink }) ∧
  (∀ (s : State) (r : Request) (env : List EnvSample) (i : Instr), decode r.word = .ok i →
    s.outstanding = some r → s.env = .go :: env →
    step s = exec i { s with outstanding := none, env := env, ink := r.ink })

/-- R126: an idle block holds all its state. -/
def Obligations.IdleBlockHoldsItsState : Prop :=
  ∀ s : State, s.outstanding = none → s.host = [] → ¬ ResetArrives s → step s = .next { s with env := s.env.tail }

/-- R133: while the environment makes a request wait, any number of steps, nothing changes and no other request is taken;
then it completes with all its bytes, or `RST` ends it. (The samples are the model's form: entry 2.) -/
def Obligations.HeldRequestWaitsWithoutLosingBytes : Prop :=
  ∀ (n : Nat) (s : State) (r : Request) (env : List EnvSample), s.outstanding = some r →
    s.env = List.replicate n .wait ++ env →
    runFor n s = .next { s with env := env } ∧
    step { s with env := .go :: env } = perform r { s with outstanding := none, env := env } ∧
    step { s with env := .rst :: env } = .next (takeReset { s with env := env })

/-- R133, U7: a downstream that never takes another byte. A request that would emit a byte is held, for any number of steps, a
next state each and never a fault, and whatever the host presents after it waits with it; presented to an idle block it is
accepted and held; a request that emits nothing needs no downstream and completes. A request would emit a byte exactly when
its effect appends to `OUT`. (Where in the samples this sets in is the model's form: entry 2.) -/
def Obligations.StuckDownstreamHoldsAFrameForEver : Prop :=
  (∀ (k n : Nat) (s : State) (r : Request), s.outstanding = some r → s.env = List.replicate k .wait →
    s.downstreamStuck = true → emitted r s ≠ [] → runFor (k + n) s = .next { s with env := [] }) ∧
  (∀ (s : State) (r : Request) (rest : List HostAction), s.outstanding = none → s.host = .request r :: rest →
    s.env = [] → s.downstreamStuck = true → emitted r s ≠ [] →
    step s = .next { s with outstanding := some r, ink := r.ink, host := rest }) ∧
  (∀ (s : State) (r : Request), s.outstanding = some r → s.env = [] → s.downstreamStuck = true → emitted r s = [] →
    step s = perform r { s with outstanding := none }) ∧
  (∀ (s : State) (r : Request), emitted r s ≠ [] ↔ ∃ t, perform r s = .next t ∧ t.out ≠ s.out)

/-- R34, R137: a request that must wait is accepted with REQ and INK as presented, and completes with them. -/
def Obligations.AcceptedRequestKeepsItsSampledInputs : Prop :=
  ∀ (s t : State) (r : Request) (rest : List HostAction) (env : List EnvSample), s.outstanding = none →
    s.host = .request r :: rest → s.env = .wait :: .go :: env → step s = .next t →
    t = { s with outstanding := some r, ink := r.ink, host := rest, env := .go :: env } ∧
    step t = perform r { s with host := rest, env := env, ink := r.ink }

/-- R136: a read presented while a request is outstanding is answered only after it, with the state it left. -/
def Obligations.HeldReadAnswersWithTheStateTheRequestLeft : Prop :=
  ∀ (n : Nat) (s t : State) (r : Request) (a : Byte) (rest : List HostAction) (env : List EnvSample),
    s.outstanding = some r → s.host = .read a :: rest → s.env = List.replicate n .wait ++ .go :: .go :: env →
    perform r { s with outstanding := none, env := .go :: env } = .next t →
    t.reads = s.reads ∧ t.host = s.host ∧
    runFor (n + 2) s =
      .next { t with host := rest, env := env, reads := s.reads ++ [readPort a t] }

/-- R127: the state after reset, at power-on (`State.reset`) and when `RST` arrives in any state. -/
def Obligations.ResetGivesEveryRegisterItsValue : Prop :=
  ∀ s t : State, (t = State.reset ∨ (ResetArrives s ∧ step s = .next t)) →
    t.crc = 0x00#8 ∧ t.statusErr = false ∧ t.statusCode = 0#3 ∧ t.lineValid = false ∧ t.lineComp = false ∧
    t.lineLen = 0#6 ∧ (∀ i, t.lineBuf.read i = 0x00#8) ∧ t.cap = false ∧ t.outstanding = none ∧ t.out = []

/-- R128: `RST` always takes effect; an outstanding request is abandoned with no `RSP`, and what was handed downstream of its
frame is a prefix of it, added to the bytes that are not recalled. It holds whatever the free value is. That the record of
codes starts anew, and the record of bytes handed downstream, are the model's (entries 4 and 5). -/
def Obligations.ResetAbandonsTheOutstandingRequest : Prop :=
  (∀ s : State, ResetArrives s → ∃ t, step s = .next t ∧ t.outstanding = none ∧ t.rsp = [] ∧
    t.host = s.host ∧ s.sent <+: t.sent) ∧
  (∀ s t : State, ResetArrives s → step s = .next t → s.outstanding = none → t.sent = s.sent) ∧
  (∀ (s t u : State) (r : Request), ResetArrives s → step s = .next t → s.outstanding = some r →
    perform r s = .next u → ∃ handed frame, t.sent = s.sent ++ handed ∧ handed <+: frame ∧ u.out = s.out ++ frame)

/-! ## Invariants -/

/-- R30: between requests the LINE group satisfies exactly one of the three cases: at reset, and after every step from a
state that does. -/
def Obligations.LineGroupStaysInOneOfItsThreeCases : Prop :=
  LineOk State.reset ∧
  (∀ s t : State, LineOk s → step s = .next t → LineOk t) ∧
  (∀ s : State, LineOk s →
    (LineBlank s ∧ ¬ LinePacked s ∧ ¬ LineCompressed s) ∨ (¬ LineBlank s ∧ LinePacked s ∧ ¬ LineCompressed s) ∨
    (¬ LineBlank s ∧ ¬ LinePacked s ∧ LineCompressed s))

/-- R21, R114: `STATUS.CODE` takes only the values 0 to 4 and is 0 exactly when `ERR` is 0; no code 5, 6 or 7 is answered. -/
def Obligations.StatusAndResponsesStayLegal : Prop :=
  ∀ s t : State, StatusOk s → RspOk s → step s = .next t → StatusOk t ∧ RspOk t

/-- The line buffer keeps its canonical form (R35: indices 0 to 47 only), and nothing handed downstream is lost (R38; the
record of it is the model's, entry 5). -/
def Obligations.LineBufferStaysCanonical : Prop :=
  ∀ s t : State, s.lineBuf.wf → s.out <:+ s.sent → step s = .next t →
    t.lineBuf.wf ∧ t.out <:+ t.sent ∧ s.sent <+: t.sent

/-- R38: `OUT` is append-only between resets, and so is the record of what was handed downstream (the model's, entry 5),
always. -/
def Obligations.OutputIsAppendOnly : Prop :=
  ∀ s t : State, step s = .next t →
    s.sent <+: t.sent ∧ (¬ ResetArrives s → ∃ bytes, t.out = s.out ++ bytes ∧ t.sent = s.sent ++ bytes)

/-- The model's invariant holds in the state after reset. -/
def Obligations.ResetMeetsTheInvariant : Prop := Inv State.reset

/-- From every state that meets the invariant, the block goes on for ever: every step answers a next state, which meets it
too (R117: "an error does not stop the block"). -/
def Obligations.BlockNeverStopsFromALegalState : Prop :=
  ∀ (n : Nat) (s : State), Inv s → SafeStep s ∧ ∃ t, runFor n s = .next t ∧ Inv t
end

