-- ==== Sys2Proof/Laws/Checksum.lean ====
section
/-! SUPPORT. The small laws of the checksum's step (spec/40_checksum.md R70): folding, and linearity over exclusive or,
from one shift up to whole lists. -/

namespace Sys2Proof.Machine

@[simp] theorem crc8_nil : crc8 [] = 0x00#8 := rfl

theorem crc8_append (p q : List Byte) : crc8 (p ++ q) = q.foldl crc8Step (crc8 p) := by
  simp [crc8]

@[simp] theorem crc8Step_zero_zero : crc8Step 0x00#8 0x00#8 = 0x00#8 := by decide

theorem crcShift_xor (a b : Byte) : crcShift (a ^^^ b) = crcShift a ^^^ crcShift b := by
  unfold crcShift
  rw [BitVec.getLsbD_xor, BitVec.shiftLeft_xor_distrib]
  generalize a <<< 1 = x, b <<< 1 = y, Config.crcPolynomial = p
  cases a.getLsbD 7 <;> cases b.getLsbD 7 <;> simp only [Bool.false_eq_true, Bool.xor_false, Bool.false_xor,
    Bool.xor_self, if_true, if_false]
  · ac_rfl
  · ac_rfl
  · rw [show x ^^^ p ^^^ (y ^^^ p) = x ^^^ y ^^^ (p ^^^ p) by ac_rfl, BitVec.xor_self, BitVec.xor_zero]

theorem foldl_crcShift_xor (l : List Nat) (a b : Byte) :
    l.foldl (fun c _ => crcShift c) (a ^^^ b) =
      l.foldl (fun c _ => crcShift c) a ^^^ l.foldl (fun c _ => crcShift c) b := by
  induction l generalizing a b with
  | nil => rfl
  | cons _ l ih => simp [crcShift_xor, ih]

theorem crc8Step_xor (a b c d : Byte) : crc8Step (a ^^^ b) (c ^^^ d) = crc8Step a c ^^^ crc8Step b d := by
  unfold crc8Step
  rw [← foldl_crcShift_xor]
  congr 1
  ac_rfl

end Sys2Proof.Machine
end

