-- ==== Sys2Proof/Laws/Encoding.lean ====
section
/-! SUPPORT. The laws of the request word's fields: taking apart a word put together from fields gives the fields,
and the other way round; the tables of the classes and of the wire opcodes are one to one. -/

namespace Sys2Proof

theorem fieldsOf_assemble (f : ReqFields) : fieldsOf (assemble f) = f := by
  obtain ⟨kind, sel, rsvd, op, arg⟩ := f
  simp only [fieldsOf, assemble, ReqFields.mk.injEq]
  refine ⟨?_, ?_, ?_, ?_, ?_⟩
  · ext i hi
    have h2 : i < 2 := hi
    interval_cases i <;> simp
  · simp
  · ext i hi
    have h2 : i < 5 := hi
    interval_cases i <;> simp
  · ext i hi
    have h2 : i < 8 := hi
    interval_cases i <;> simp
  · ext i hi
    have h2 : i < 16 := hi
    interval_cases i <;> simp

theorem assemble_fieldsOf (w : Word) : assemble (fieldsOf w) = w := by
  refine BitVec.eq_of_getLsbD_eq fun i hi => ?_
  simp only [fieldsOf, assemble, BitVec.getLsbD_or, BitVec.getLsbD_shiftLeft, BitVec.getLsbD_setWidth,
    BitVec.getLsbD_extractLsb', BitVec.getLsbD_ofBool]
  rcases lt_or_ge i 2 with h | h
  · simp [h, show i < 3 by omega, show i < 8 by omega, show i < 16 by omega, hi]
  rcases eq_or_lt_of_le h with rfl | h
  · simp
  rcases lt_or_ge i 8 with h1 | h1
  · simp [h1, hi, show ¬ i < 3 by omega, show ¬ i < 2 by omega, show i < 16 by omega, show i - 3 < 5 by omega,
      show ¬ i - 2 = 0 by omega, show i - 3 < 32 by omega, show 3 + (i - 3) = i by omega]
  rcases lt_or_ge i 16 with h2 | h2
  · simp [h2, hi, show ¬ i < 3 by omega, show ¬ i < 2 by omega, show ¬ i < 8 by omega, show ¬ i - 3 < 5 by omega,
      show ¬ i - 2 = 0 by omega, show i - 8 < 8 by omega, show i - 8 < 32 by omega, show 8 + (i - 8) = i by omega]
  · simp [hi, show ¬ i < 16 by omega, show ¬ i < 3 by omega, show ¬ i < 2 by omega, show ¬ i < 8 by omega,
      show ¬ i - 3 < 5 by omega, show ¬ i - 2 = 0 by omega, show ¬ i - 8 < 8 by omega, show i - 16 < 16 by omega,
      show i - 16 < 32 by omega, show 16 + (i - 16) = i by omega]

@[simp] theorem WireOp.ofByte?_code (o : WireOp) : WireOp.ofByte? o.code = some o := by
  cases o <;> decide

theorem WireOp.code_of_ofByte? {b : Byte} {o : WireOp} (h : WireOp.ofByte? b = some o) : o.code = b := by
  simpa using List.find?_some h

@[simp] theorem ReqKind.ofBits_bits (k : ReqKind) : ReqKind.ofBits k.bits = k := by
  cases k <;> decide

@[simp] theorem ReqKind.bits_ofBits (b : BitVec 2) : (ReqKind.ofBits b).bits = b := by
  revert b; decide

@[simp] theorem argLow_byteArg (b : Byte) : argLow (byteArg b) = b := by
  revert b; decide

@[simp] theorem argHigh_byteArg (b : Byte) : argHigh (byteArg b) = 0 := by
  revert b; decide

theorem byteArg_argLow {arg : BitVec 16} (h : argHigh arg = 0) : byteArg (argLow arg) = arg := by
  refine BitVec.eq_of_getLsbD_eq fun i hi => ?_
  have hb := congrArg (fun v => BitVec.getLsbD v (i - 8)) h
  simp only [argHigh, byteArg, argLow, BitVec.getLsbD_setWidth, BitVec.getLsbD_extractLsb'] at hb ⊢
  rcases lt_or_ge i 8 with h8 | h8
  · simp [h8, hi]
  · simp [show ¬ i < 8 by omega]
    simpa [show i - 8 < 8 by omega, show 8 + (i - 8) = i by omega, BitVec.getLsbD_eq_getElem hi] using hb.symm

/-- What a successful `require` says. -/
theorem require_ok {zero : Bool} {i j : Instr} : require zero i = .ok j ↔ zero = true ∧ i = j := by
  cases zero <;> simp [require]

/-- The only error a `require` raises. -/
theorem require_error {zero : Bool} {i : Instr} {k : ErrCode} :
    require zero i = .error k ↔ zero = false ∧ k = .rsvd := by
  cases zero <;> simp [require, eq_comm]

end Sys2Proof
end

