-- ==== Sys2Proof/Laws/Memory.lean ====
section
/-! SUPPORT. The laws of the line buffer: a read after a write gives the value written, a write leaves every other
index alone (both on every list, canonical or not), and every operation keeps the canonical form. -/

namespace Sys2Proof.Machine.Memory

@[simp] theorem read_nil (i : Nat) : Memory.read [] i = Memory.blank := rfl

theorem read_cons (c : Host.Cell) (m : Memory) (i : Nat) :
    Memory.read (c :: m) i = if c.1 = i then c.2 else Memory.read m i := by
  by_cases h : c.1 = i <;> simp [Memory.read, h]

/-- Inserting a cell whose index is not listed makes that index read its value and changes no other. -/
theorem read_insertCell (c : Host.Cell) (m : Memory) (i : Nat) (h : ∀ d ∈ m, d.1 ≠ c.1) :
    Memory.read (Memory.insertCell c m) i = if c.1 = i then c.2 else Memory.read m i := by
  induction m with
  | nil => simp [Memory.insertCell, read_cons]
  | cons d m ih =>
    have hd : d.1 ≠ c.1 := h d (by simp)
    by_cases hlt : c.1 < d.1
    · simp [Memory.insertCell, hlt, read_cons]
    · have ih := ih fun e he => h e (by simp [he])
      simp only [Memory.insertCell, hlt, if_false, read_cons, ih]
      split_ifs <;> simp_all

/-- Dropping an index makes it read blank and changes no other. -/
theorem read_filter_ne (m : Memory) (i j : Nat) :
    Memory.read (m.filter fun c => c.1 != i) j = if i = j then Memory.blank else Memory.read m j := by
  induction m with
  | nil => simp
  | cons d m ih =>
    by_cases hd : d.1 = i
    · simp only [List.filter_cons, hd, bne_self_eq_false, Bool.false_eq_true, if_false, ih, read_cons]
      split_ifs <;> simp_all
    · simp only [List.filter_cons, bne_iff_ne, ne_eq, hd, not_false_eq_true, if_true, read_cons, ih]
      split_ifs <;> simp_all

theorem not_mem_filter_ne (m : Memory) (i : Nat) : ∀ d ∈ m.filter (fun c => c.1 != i), d.1 ≠ i := by
  intro d hd
  simpa using (List.mem_filter.mp hd).2

/-- The one law of a write: what every index reads afterwards (R35). -/
theorem read_write (m : Memory) (i : Nat) (v : Byte) (j : Nat) :
    (m.write i v).read j = if i = j then v else m.read j := by
  unfold Memory.write
  by_cases hv : v = Memory.blank
  · simp [hv, read_filter_ne]
  · simp only [hv, if_false]
    rw [read_insertCell _ _ _ (not_mem_filter_ne m i), read_filter_ne]
    split_ifs <;> rfl

theorem read_write_same (m : Memory) (i : Nat) (v : Byte) : (m.write i v).read i = v := by
  simp [read_write]

theorem read_write_other (m : Memory) (i : Nat) (v : Byte) (j : Nat) (h : i ≠ j) :
    (m.write i v).read j = m.read j := by
  simp [read_write, h]

/-! The canonical form. -/

theorem wf_nil : Memory.wf [] := by simp [Memory.wf]

theorem mem_insertCell (c d : Host.Cell) (m : Memory) :
    d ∈ Memory.insertCell c m ↔ d = c ∨ d ∈ m := by
  induction m with
  | nil => simp [Memory.insertCell]
  | cons e m ih =>
    by_cases h : c.1 < e.1
    · simp [Memory.insertCell, h]
    · simp only [Memory.insertCell, h, if_false, List.mem_cons, ih]
      tauto

theorem pairwise_insertCell (c : Host.Cell) (m : Memory) (hm : m.Pairwise fun p q => p.1 < q.1)
    (h : ∀ d ∈ m, d.1 ≠ c.1) : (Memory.insertCell c m).Pairwise fun p q => p.1 < q.1 := by
  induction m with
  | nil => simp [Memory.insertCell]
  | cons e m ih =>
    obtain ⟨he, hm⟩ := List.pairwise_cons.mp hm
    by_cases hlt : c.1 < e.1
    · simp only [Memory.insertCell, hlt, if_true, List.pairwise_cons, List.mem_cons]
      exact ⟨fun d hd => hd.elim (fun h => h ▸ hlt) fun hd => lt_trans hlt (he d hd), he, hm⟩
    · simp only [Memory.insertCell, hlt, if_false, List.pairwise_cons]
      refine ⟨fun d hd => ?_, ih hm fun d hd => h d (by simp [hd])⟩
      rcases (mem_insertCell c d m).mp hd with rfl | hd
      · exact lt_of_le_of_ne (not_lt.mp hlt) (h e (by simp))
      · exact he d hd

/-- A write below 48 keeps the canonical form. -/
theorem wf_write (m : Memory) (i : Nat) (v : Byte) (hm : m.wf) (hi : i < Config.rowBytes) : (m.write i v).wf := by
  obtain ⟨hs, hc⟩ := hm
  have hs' := hs.filter (fun c : Host.Cell => c.1 != i)
  have hc' : ∀ c ∈ m.filter (fun c => c.1 != i), c.2 ≠ Memory.blank ∧ c.1 < Config.rowBytes :=
    fun c h => hc c (List.mem_filter.mp h).1
  unfold Memory.write
  by_cases hv : v = Memory.blank
  · simpa only [hv, if_true] using ⟨hs', hc'⟩
  · simp only [hv, if_false]
    refine ⟨pairwise_insertCell _ _ hs' (not_mem_filter_ne m i), fun c h => ?_⟩
    rcases (mem_insertCell _ _ _).mp h with rfl | h
    · exact ⟨hv, hi⟩
    · exact hc' c h

/-! All 48 bytes at once. -/

theorem read_foldl_write (f : Nat → Byte) (n : Nat) (m : Memory) (j : Nat) :
    ((List.range n).foldl (fun m i => Memory.write m i (f i)) m).read j = if j < n then f j else m.read j := by
  induction n with
  | zero => simp
  | succ n ih =>
    rw [List.range_succ, List.foldl_append]
    simp only [List.foldl_cons, List.foldl_nil, read_write, ih]
    by_cases h : n = j
    · subst h; simp
    · have : (j < n + 1) ↔ j < n := by omega
      simp [h, this]

theorem wf_foldl_write (f : Nat → Byte) (n : Nat) (hn : n ≤ Config.rowBytes) (m : Memory) (hm : m.wf) :
    ((List.range n).foldl (fun m i => Memory.write m i (f i)) m).wf := by
  induction n with
  | zero => simpa using hm
  | succ n ih =>
    rw [List.range_succ, List.foldl_append]
    exact wf_write _ _ _ (ih (by omega)) (by omega)

/-- What every index reads after `writeLineBuf` (R105). -/
theorem read_writeLineBuf (buf : List Byte) (m : Memory) (j : Nat) :
    (writeLineBuf buf m).read j = if j < 48 then buf.getD j 0x00#8 else m.read j :=
  read_foldl_write _ 48 m j

theorem wf_writeLineBuf (buf : List Byte) (m : Memory) (hm : m.wf) : (writeLineBuf buf m).wf :=
  wf_foldl_write _ 48 (le_refl _) m hm

/-- Memories in canonical form that read alike are equal. -/
theorem ext_of_wf : ∀ (m n : Memory), m.wf → n.wf → (∀ i, m.read i = n.read i) → m = n := by
  have below (m : Memory) (k : Nat) (h : ∀ d ∈ m, k < d.1) : m.read k = Memory.blank := by
    induction m with
    | nil => rfl
    | cons d m ih =>
      have hd : d.1 ≠ k := (h d (by simp)).ne'
      rw [read_cons, if_neg hd, ih fun e he => h e (by simp [he])]
  intro m
  induction m with
  | nil =>
    intro n _ hn h
    cases n with
    | nil => rfl
    | cons d n =>
      have := h d.1
      rw [read_nil, read_cons, if_pos rfl] at this
      exact absurd this.symm (hn.2 d (by simp)).1
  | cons c m ih =>
    intro n hm hn h
    obtain ⟨hcm, hm'⟩ := List.pairwise_cons.mp hm.1
    cases n with
    | nil =>
      have := h c.1
      rw [read_nil, read_cons, if_pos rfl] at this
      exact absurd this (hm.2 c (by simp)).1
    | cons d n =>
      obtain ⟨hdn, hn'⟩ := List.pairwise_cons.mp hn.1
      have hcd : c.1 = d.1 := by
        rcases lt_trichotomy c.1 d.1 with hlt | heq | hgt
        · have := h c.1
          rw [read_cons, if_pos rfl, below (d :: n) c.1 (by
            intro e he
            rcases List.mem_cons.mp he with rfl | he
            · exact hlt
            · exact lt_trans hlt (hdn e he))] at this
          exact absurd this (hm.2 c (by simp)).1
        · exact heq
        · have := h d.1
          rw [read_cons (c := d), if_pos rfl, below (c :: m) d.1 (by
            intro e he
            rcases List.mem_cons.mp he with rfl | he
            · exact hgt
            · exact lt_trans hgt (hcm e he))] at this
          exact absurd this.symm (hn.2 d (by simp)).1
      have hv : c.2 = d.2 := by
        have := h c.1
        rwa [read_cons, read_cons, if_pos rfl, if_pos hcd.symm] at this
      have hrest : m = n := by
        refine ih n ⟨hm', fun e he => hm.2 e (by simp [he])⟩ ⟨hn', fun e he => hn.2 e (by simp [he])⟩ fun i => ?_
        by_cases hi : c.1 = i
        · subst hi
          rw [below m _ hcm, below n _ (by intro e he; rw [hcd]; exact hdn e he)]
        · have := h i
          rwa [read_cons, read_cons, if_neg hi, if_neg (hcd ▸ hi)] at this
      rw [hrest, Prod.ext hcd hv]

end Sys2Proof.Machine.Memory
end

