-- ==== Sys2Proof/Laws/State.lean ====
section
/-! SUPPORT. What each named update of State leaves in each field: one lemma per field per update, so that no
proof unfolds a record update. -/

namespace Sys2Proof.Machine

/-! `emit` (R38) -/

@[simp] theorem emit_crc (bytes : List Byte) (s : State) : (emit bytes s).crc = s.crc := rfl
@[simp] theorem emit_statusErr (bytes : List Byte) (s : State) : (emit bytes s).statusErr = s.statusErr := rfl
@[simp] theorem emit_statusCode (bytes : List Byte) (s : State) : (emit bytes s).statusCode = s.statusCode := rfl
@[simp] theorem emit_lineValid (bytes : List Byte) (s : State) : (emit bytes s).lineValid = s.lineValid := rfl
@[simp] theorem emit_lineComp (bytes : List Byte) (s : State) : (emit bytes s).lineComp = s.lineComp := rfl
@[simp] theorem emit_lineLen (bytes : List Byte) (s : State) : (emit bytes s).lineLen = s.lineLen := rfl
@[simp] theorem emit_lineBuf (bytes : List Byte) (s : State) : (emit bytes s).lineBuf = s.lineBuf := rfl
@[simp] theorem emit_cap (bytes : List Byte) (s : State) : (emit bytes s).cap = s.cap := rfl
@[simp] theorem emit_out (bytes : List Byte) (s : State) : (emit bytes s).out = s.out ++ bytes := rfl
@[simp] theorem emit_outstanding (bytes : List Byte) (s : State) : (emit bytes s).outstanding = s.outstanding := rfl
@[simp] theorem emit_ink (bytes : List Byte) (s : State) : (emit bytes s).ink = s.ink := rfl
@[simp] theorem emit_host (bytes : List Byte) (s : State) : (emit bytes s).host = s.host := rfl
@[simp] theorem emit_env (bytes : List Byte) (s : State) : (emit bytes s).env = s.env := rfl
@[simp] theorem emit_downstreamStuck (bytes : List Byte) (s : State) : (emit bytes s).downstreamStuck = s.downstreamStuck := rfl
@[simp] theorem emit_rsp (bytes : List Byte) (s : State) : (emit bytes s).rsp = s.rsp := rfl
@[simp] theorem emit_reads (bytes : List Byte) (s : State) : (emit bytes s).reads = s.reads := rfl
@[simp] theorem emit_sent (bytes : List Byte) (s : State) : (emit bytes s).sent = s.sent ++ bytes := rfl
@[simp] theorem emit_row (bytes : List Byte) (s : State) : (emit bytes s).row = s.row := rfl
@[simp] theorem emit_draws (bytes : List Byte) (s : State) : (emit bytes s).draws = s.draws := rfl

/-! `respond` (R34) -/

@[simp] theorem respond_crc (code : Rsp) (s : State) : (respond code s).crc = s.crc := rfl
@[simp] theorem respond_statusErr (code : Rsp) (s : State) : (respond code s).statusErr = s.statusErr := rfl
@[simp] theorem respond_statusCode (code : Rsp) (s : State) : (respond code s).statusCode = s.statusCode := rfl
@[simp] theorem respond_lineValid (code : Rsp) (s : State) : (respond code s).lineValid = s.lineValid := rfl
@[simp] theorem respond_lineComp (code : Rsp) (s : State) : (respond code s).lineComp = s.lineComp := rfl
@[simp] theorem respond_lineLen (code : Rsp) (s : State) : (respond code s).lineLen = s.lineLen := rfl
@[simp] theorem respond_lineBuf (code : Rsp) (s : State) : (respond code s).lineBuf = s.lineBuf := rfl
@[simp] theorem respond_cap (code : Rsp) (s : State) : (respond code s).cap = s.cap := rfl
@[simp] theorem respond_out (code : Rsp) (s : State) : (respond code s).out = s.out := rfl
@[simp] theorem respond_outstanding (code : Rsp) (s : State) : (respond code s).outstanding = s.outstanding := rfl
@[simp] theorem respond_ink (code : Rsp) (s : State) : (respond code s).ink = s.ink := rfl
@[simp] theorem respond_host (code : Rsp) (s : State) : (respond code s).host = s.host := rfl
@[simp] theorem respond_env (code : Rsp) (s : State) : (respond code s).env = s.env := rfl
@[simp] theorem respond_downstreamStuck (code : Rsp) (s : State) : (respond code s).downstreamStuck = s.downstreamStuck := rfl
@[simp] theorem respond_rsp (code : Rsp) (s : State) : (respond code s).rsp = s.rsp ++ [code] := rfl
@[simp] theorem respond_reads (code : Rsp) (s : State) : (respond code s).reads = s.reads := rfl
@[simp] theorem respond_sent (code : Rsp) (s : State) : (respond code s).sent = s.sent := rfl
@[simp] theorem respond_row (code : Rsp) (s : State) : (respond code s).row = s.row := rfl
@[simp] theorem respond_draws (code : Rsp) (s : State) : (respond code s).draws = s.draws := rfl

/-! `succeed` (R114) -/

@[simp] theorem succeed_crc (s : State) : (succeed s).crc = s.crc := rfl
@[simp] theorem succeed_statusErr (s : State) : (succeed s).statusErr = s.statusErr := rfl
@[simp] theorem succeed_statusCode (s : State) : (succeed s).statusCode = s.statusCode := rfl
@[simp] theorem succeed_lineValid (s : State) : (succeed s).lineValid = s.lineValid := rfl
@[simp] theorem succeed_lineComp (s : State) : (succeed s).lineComp = s.lineComp := rfl
@[simp] theorem succeed_lineLen (s : State) : (succeed s).lineLen = s.lineLen := rfl
@[simp] theorem succeed_lineBuf (s : State) : (succeed s).lineBuf = s.lineBuf := rfl
@[simp] theorem succeed_cap (s : State) : (succeed s).cap = s.cap := rfl
@[simp] theorem succeed_out (s : State) : (succeed s).out = s.out := rfl
@[simp] theorem succeed_outstanding (s : State) : (succeed s).outstanding = s.outstanding := rfl
@[simp] theorem succeed_ink (s : State) : (succeed s).ink = s.ink := rfl
@[simp] theorem succeed_host (s : State) : (succeed s).host = s.host := rfl
@[simp] theorem succeed_env (s : State) : (succeed s).env = s.env := rfl
@[simp] theorem succeed_downstreamStuck (s : State) : (succeed s).downstreamStuck = s.downstreamStuck := rfl
@[simp] theorem succeed_rsp (s : State) : (succeed s).rsp = s.rsp ++ [rspOk] := rfl
@[simp] theorem succeed_reads (s : State) : (succeed s).reads = s.reads := rfl
@[simp] theorem succeed_sent (s : State) : (succeed s).sent = s.sent := rfl
@[simp] theorem succeed_row (s : State) : (succeed s).row = s.row := rfl
@[simp] theorem succeed_draws (s : State) : (succeed s).draws = s.draws := rfl

/-! `fail`, the error entry (R116) -/

@[simp] theorem fail_crc (k : ErrCode) (s : State) : (fail k s).crc = s.crc := rfl
@[simp] theorem fail_statusErr (k : ErrCode) (s : State) : (fail k s).statusErr = true := rfl
@[simp] theorem fail_statusCode (k : ErrCode) (s : State) : (fail k s).statusCode = if s.statusErr then s.statusCode else k.code := rfl
@[simp] theorem fail_lineValid (k : ErrCode) (s : State) : (fail k s).lineValid = s.lineValid := rfl
@[simp] theorem fail_lineComp (k : ErrCode) (s : State) : (fail k s).lineComp = s.lineComp := rfl
@[simp] theorem fail_lineLen (k : ErrCode) (s : State) : (fail k s).lineLen = s.lineLen := rfl
@[simp] theorem fail_lineBuf (k : ErrCode) (s : State) : (fail k s).lineBuf = s.lineBuf := rfl
@[simp] theorem fail_cap (k : ErrCode) (s : State) : (fail k s).cap = s.cap := rfl
@[simp] theorem fail_out (k : ErrCode) (s : State) : (fail k s).out = s.out := rfl
@[simp] theorem fail_outstanding (k : ErrCode) (s : State) : (fail k s).outstanding = s.outstanding := rfl
@[simp] theorem fail_ink (k : ErrCode) (s : State) : (fail k s).ink = s.ink := rfl
@[simp] theorem fail_host (k : ErrCode) (s : State) : (fail k s).host = s.host := rfl
@[simp] theorem fail_env (k : ErrCode) (s : State) : (fail k s).env = s.env := rfl
@[simp] theorem fail_downstreamStuck (k : ErrCode) (s : State) : (fail k s).downstreamStuck = s.downstreamStuck := rfl
@[simp] theorem fail_rsp (k : ErrCode) (s : State) : (fail k s).rsp = s.rsp ++ [k.code] := rfl
@[simp] theorem fail_reads (k : ErrCode) (s : State) : (fail k s).reads = s.reads := rfl
@[simp] theorem fail_sent (k : ErrCode) (s : State) : (fail k s).sent = s.sent := rfl
@[simp] theorem fail_row (k : ErrCode) (s : State) : (fail k s).row = s.row := rfl
@[simp] theorem fail_draws (k : ErrCode) (s : State) : (fail k s).draws = s.draws := rfl

/-! `clearStatus` (R109) -/

@[simp] theorem clearStatus_crc (s : State) : (clearStatus s).crc = s.crc := rfl
@[simp] theorem clearStatus_statusErr (s : State) : (clearStatus s).statusErr = false := rfl
@[simp] theorem clearStatus_statusCode (s : State) : (clearStatus s).statusCode = 0#3 := rfl
@[simp] theorem clearStatus_lineValid (s : State) : (clearStatus s).lineValid = s.lineValid := rfl
@[simp] theorem clearStatus_lineComp (s : State) : (clearStatus s).lineComp = s.lineComp := rfl
@[simp] theorem clearStatus_lineLen (s : State) : (clearStatus s).lineLen = s.lineLen := rfl
@[simp] theorem clearStatus_lineBuf (s : State) : (clearStatus s).lineBuf = s.lineBuf := rfl
@[simp] theorem clearStatus_cap (s : State) : (clearStatus s).cap = s.cap := rfl
@[simp] theorem clearStatus_out (s : State) : (clearStatus s).out = s.out := rfl
@[simp] theorem clearStatus_outstanding (s : State) : (clearStatus s).outstanding = s.outstanding := rfl
@[simp] theorem clearStatus_ink (s : State) : (clearStatus s).ink = s.ink := rfl
@[simp] theorem clearStatus_host (s : State) : (clearStatus s).host = s.host := rfl
@[simp] theorem clearStatus_env (s : State) : (clearStatus s).env = s.env := rfl
@[simp] theorem clearStatus_downstreamStuck (s : State) : (clearStatus s).downstreamStuck = s.downstreamStuck := rfl
@[simp] theorem clearStatus_rsp (s : State) : (clearStatus s).rsp = s.rsp := rfl
@[simp] theorem clearStatus_reads (s : State) : (clearStatus s).reads = s.reads := rfl
@[simp] theorem clearStatus_sent (s : State) : (clearStatus s).sent = s.sent := rfl
@[simp] theorem clearStatus_row (s : State) : (clearStatus s).row = s.row := rfl
@[simp] theorem clearStatus_draws (s : State) : (clearStatus s).draws = s.draws := rfl

/-! `writeLine` (R105) -/

@[simp] theorem writeLine_crc (l : Line) (ink : Ink) (s : State) : (writeLine l ink s).crc = s.crc := rfl
@[simp] theorem writeLine_statusErr (l : Line) (ink : Ink) (s : State) : (writeLine l ink s).statusErr = s.statusErr := rfl
@[simp] theorem writeLine_statusCode (l : Line) (ink : Ink) (s : State) : (writeLine l ink s).statusCode = s.statusCode := rfl
@[simp] theorem writeLine_lineValid (l : Line) (ink : Ink) (s : State) : (writeLine l ink s).lineValid = true := rfl
@[simp] theorem writeLine_lineComp (l : Line) (ink : Ink) (s : State) : (writeLine l ink s).lineComp = l.comp := rfl
@[simp] theorem writeLine_lineLen (l : Line) (ink : Ink) (s : State) : (writeLine l ink s).lineLen = BitVec.ofNat 6 l.len := rfl
@[simp] theorem writeLine_lineBuf (l : Line) (ink : Ink) (s : State) : (writeLine l ink s).lineBuf = writeLineBuf l.buf s.lineBuf := rfl
@[simp] theorem writeLine_cap (l : Line) (ink : Ink) (s : State) : (writeLine l ink s).cap = s.cap := rfl
@[simp] theorem writeLine_out (l : Line) (ink : Ink) (s : State) : (writeLine l ink s).out = s.out := rfl
@[simp] theorem writeLine_outstanding (l : Line) (ink : Ink) (s : State) : (writeLine l ink s).outstanding = s.outstanding := rfl
@[simp] theorem writeLine_ink (l : Line) (ink : Ink) (s : State) : (writeLine l ink s).ink = s.ink := rfl
@[simp] theorem writeLine_host (l : Line) (ink : Ink) (s : State) : (writeLine l ink s).host = s.host := rfl
@[simp] theorem writeLine_env (l : Line) (ink : Ink) (s : State) : (writeLine l ink s).env = s.env := rfl
@[simp] theorem writeLine_downstreamStuck (l : Line) (ink : Ink) (s : State) : (writeLine l ink s).downstreamStuck = s.downstreamStuck := rfl
@[simp] theorem writeLine_rsp (l : Line) (ink : Ink) (s : State) : (writeLine l ink s).rsp = s.rsp := rfl
@[simp] theorem writeLine_reads (l : Line) (ink : Ink) (s : State) : (writeLine l ink s).reads = s.reads := rfl
@[simp] theorem writeLine_sent (l : Line) (ink : Ink) (s : State) : (writeLine l ink s).sent = s.sent := rfl
@[simp] theorem writeLine_row (l : Line) (ink : Ink) (s : State) : (writeLine l ink s).row = ink := rfl
@[simp] theorem writeLine_draws (l : Line) (ink : Ink) (s : State) : (writeLine l ink s).draws = s.draws := rfl

/-! `answerRead` (R111) -/

@[simp] theorem answerRead_crc (a : Byte) (s : State) : (answerRead a s).crc = s.crc := rfl
@[simp] theorem answerRead_statusErr (a : Byte) (s : State) : (answerRead a s).statusErr = s.statusErr := rfl
@[simp] theorem answerRead_statusCode (a : Byte) (s : State) : (answerRead a s).statusCode = s.statusCode := rfl
@[simp] theorem answerRead_lineValid (a : Byte) (s : State) : (answerRead a s).lineValid = s.lineValid := rfl
@[simp] theorem answerRead_lineComp (a : Byte) (s : State) : (answerRead a s).lineComp = s.lineComp := rfl
@[simp] theorem answerRead_lineLen (a : Byte) (s : State) : (answerRead a s).lineLen = s.lineLen := rfl
@[simp] theorem answerRead_lineBuf (a : Byte) (s : State) : (answerRead a s).lineBuf = s.lineBuf := rfl
@[simp] theorem answerRead_cap (a : Byte) (s : State) : (answerRead a s).cap = s.cap := rfl
@[simp] theorem answerRead_out (a : Byte) (s : State) : (answerRead a s).out = s.out := rfl
@[simp] theorem answerRead_outstanding (a : Byte) (s : State) : (answerRead a s).outstanding = s.outstanding := rfl
@[simp] theorem answerRead_ink (a : Byte) (s : State) : (answerRead a s).ink = s.ink := rfl
@[simp] theorem answerRead_host (a : Byte) (s : State) : (answerRead a s).host = s.host := rfl
@[simp] theorem answerRead_env (a : Byte) (s : State) : (answerRead a s).env = s.env := rfl
@[simp] theorem answerRead_downstreamStuck (a : Byte) (s : State) : (answerRead a s).downstreamStuck = s.downstreamStuck := rfl
@[simp] theorem answerRead_rsp (a : Byte) (s : State) : (answerRead a s).rsp = s.rsp := rfl
@[simp] theorem answerRead_reads (a : Byte) (s : State) : (answerRead a s).reads = s.reads ++ [readPort a s] := rfl
@[simp] theorem answerRead_sent (a : Byte) (s : State) : (answerRead a s).sent = s.sent := rfl
@[simp] theorem answerRead_row (a : Byte) (s : State) : (answerRead a s).row = s.row := rfl
@[simp] theorem answerRead_draws (a : Byte) (s : State) : (answerRead a s).draws = s.draws := rfl

/-! `State.offer` (R34) -/

@[simp] theorem offer_crc (s : State) (w : Word) (ink : Ink) : (s.offer w ink).crc = s.crc := rfl
@[simp] theorem offer_statusErr (s : State) (w : Word) (ink : Ink) : (s.offer w ink).statusErr = s.statusErr := rfl
@[simp] theorem offer_statusCode (s : State) (w : Word) (ink : Ink) : (s.offer w ink).statusCode = s.statusCode := rfl
@[simp] theorem offer_lineValid (s : State) (w : Word) (ink : Ink) : (s.offer w ink).lineValid = s.lineValid := rfl
@[simp] theorem offer_lineComp (s : State) (w : Word) (ink : Ink) : (s.offer w ink).lineComp = s.lineComp := rfl
@[simp] theorem offer_lineLen (s : State) (w : Word) (ink : Ink) : (s.offer w ink).lineLen = s.lineLen := rfl
@[simp] theorem offer_lineBuf (s : State) (w : Word) (ink : Ink) : (s.offer w ink).lineBuf = s.lineBuf := rfl
@[simp] theorem offer_cap (s : State) (w : Word) (ink : Ink) : (s.offer w ink).cap = s.cap := rfl
@[simp] theorem offer_out (s : State) (w : Word) (ink : Ink) : (s.offer w ink).out = s.out := rfl
@[simp] theorem offer_outstanding (s : State) (w : Word) (ink : Ink) : (s.offer w ink).outstanding = none := rfl
@[simp] theorem offer_ink (s : State) (w : Word) (ink : Ink) : (s.offer w ink).ink = s.ink := rfl
@[simp] theorem offer_host (s : State) (w : Word) (ink : Ink) : (s.offer w ink).host = .request ⟨w, ink⟩ :: s.host := rfl
@[simp] theorem offer_env (s : State) (w : Word) (ink : Ink) : (s.offer w ink).env = .go :: s.env := rfl
@[simp] theorem offer_downstreamStuck (s : State) (w : Word) (ink : Ink) : (s.offer w ink).downstreamStuck = s.downstreamStuck := rfl
@[simp] theorem offer_rsp (s : State) (w : Word) (ink : Ink) : (s.offer w ink).rsp = s.rsp := rfl
@[simp] theorem offer_reads (s : State) (w : Word) (ink : Ink) : (s.offer w ink).reads = s.reads := rfl
@[simp] theorem offer_sent (s : State) (w : Word) (ink : Ink) : (s.offer w ink).sent = s.sent := rfl
@[simp] theorem offer_row (s : State) (w : Word) (ink : Ink) : (s.offer w ink).row = s.row := rfl
@[simp] theorem offer_draws (s : State) (w : Word) (ink : Ink) : (s.offer w ink).draws = s.draws := rfl

/-! `takeReset` (R127, R128) -/

@[simp] theorem takeReset_crc (s : State) : (takeReset s).crc = 0x00#8 := rfl
@[simp] theorem takeReset_statusErr (s : State) : (takeReset s).statusErr = false := rfl
@[simp] theorem takeReset_statusCode (s : State) : (takeReset s).statusCode = 0#3 := rfl
@[simp] theorem takeReset_lineValid (s : State) : (takeReset s).lineValid = false := rfl
@[simp] theorem takeReset_lineComp (s : State) : (takeReset s).lineComp = false := rfl
@[simp] theorem takeReset_lineLen (s : State) : (takeReset s).lineLen = 0#6 := rfl
@[simp] theorem takeReset_lineBuf (s : State) : (takeReset s).lineBuf = [] := rfl
@[simp] theorem takeReset_cap (s : State) : (takeReset s).cap = false := rfl
@[simp] theorem takeReset_out (s : State) : (takeReset s).out = [] := rfl
@[simp] theorem takeReset_outstanding (s : State) : (takeReset s).outstanding = none := rfl
@[simp] theorem takeReset_ink (s : State) : (takeReset s).ink = s.ink := rfl
@[simp] theorem takeReset_host (s : State) : (takeReset s).host = s.host := rfl
@[simp] theorem takeReset_env (s : State) : (takeReset s).env = s.env := rfl
@[simp] theorem takeReset_downstreamStuck (s : State) : (takeReset s).downstreamStuck = s.downstreamStuck := rfl
@[simp] theorem takeReset_rsp (s : State) : (takeReset s).rsp = [] := rfl
@[simp] theorem takeReset_reads (s : State) : (takeReset s).reads = [] := rfl
@[simp] theorem takeReset_sent (s : State) : (takeReset s).sent = s.sent ++ cutBytes s := rfl
@[simp] theorem takeReset_row (s : State) : (takeReset s).row = 0#384 := rfl
@[simp] theorem takeReset_draws (s : State) : (takeReset s).draws = s.draws + 1 := rfl

end Sys2Proof.Machine
end

