-- ==== Sys2Proof/Laws/Exec.lean ====
section
/-! SUPPORT. What each shared operation, `exec`, `perform` and `step` can do, said once: later proofs cite these and
unfold none of them. -/

namespace Sys2Proof.Machine

/-! Payloads and frames. -/

theorem readLineBuf_eq_some {m : Memory} {n : Nat} {p : List Byte} :
    readLineBuf m n = some p ↔ n ≤ 48 ∧ p = (List.range n).map m.read := by
  unfold readLineBuf
  split_ifs with h <;> simp_all [eq_comm]

theorem readLineBuf_eq_none {m : Memory} {n : Nat} : readLineBuf m n = none ↔ 48 < n := by
  unfold readLineBuf
  split_ifs with h <;> simp_all

theorem length_readLineBuf {m : Memory} {n : Nat} {p : List Byte} (h : readLineBuf m n = some p) :
    p.length = n ∧ p.length ≤ 48 := by
  obtain ⟨hn, rfl⟩ := readLineBuf_eq_some.mp h
  simpa using hn

@[simp] theorem length_frame (op : Byte) (p : List Byte) : (frame op p).length = p.length + 8 := by
  simp [frame, Config.preamble]

/-- What a print request checks (R78). -/
theorem printError_eq_none {want : Bool} {s : State} :
    printError want s = none ↔ s.lineValid = true ∧ s.lineComp = want := by
  unfold printError
  split_ifs <;> simp_all

theorem printError_cases {want : Bool} {s : State} {k : ErrCode} (h : printError want s = some k) :
    (s.lineValid = false ∧ k = .noLine) ∨ (s.lineValid = true ∧ s.lineComp ≠ want ∧ k = .printMode) := by
  unfold printError at h
  split_ifs at h <;> simp_all

/-- What a print request can do (R78 to R80). -/
theorem printRequest_next {o : WireOp} {want : Bool} {s t : State} (h : printRequest o want s = .next t) :
    (∃ k, printError want s = some k ∧ t = fail k s) ∨
    (∃ p, printError want s = none ∧ linePayload s = some p ∧ t = succeed (emit (frame o.code p) s)) := by
  unfold printRequest at h
  split at h
  next k hk => exact .inl ⟨k, hk, by simpa using h.symm⟩
  next hk =>
    split at h
    next p hp => exact .inr ⟨p, hk, hp, by simpa [frameRequest] using h.symm⟩
    next => simp at h

/-- The print forms. -/
abbrev isPrintForm (i : Instr) : Prop := i = .printRaw ∨ i = .printRle

/-- The instruction has emitted one frame and answered success: with a payload of 0 to 2 or 11 bytes (0 for `SETWIFI`
alone), or, for a print form, the line's. -/
abbrev EmitsFrame (i : Instr) (s t : State) : Prop :=
  ∃ (o : WireOp) (p : List Byte), i.fields.kind = 0b00#2 ∧ t = succeed (emit (frame o.code p) s) ∧
    ((¬ isPrintForm i ∧ (p.length ≤ 2 ∨ p.length = 11) ∧ (i ≠ .setWifi → 1 ≤ p.length)) ∨
     (isPrintForm i ∧ s.lineValid = true ∧ linePayload s = some p))

/-- What an instruction can do when it answers a next state: emit one frame, end in error (a print), or make the one
change of state its rule names. -/
theorem exec_next {i : Instr} {s t : State} (h : exec i s = .next t) :
    EmitsFrame i s t ∨
    (∃ k, isPrintForm i ∧ t = fail k s) ∨
    (∃ c, i = .lineEnc c ∧ t = succeed (writeLine (select s.ink (effectiveCompression c s.cap)) s.ink s)) ∨
    (i = .crcClr ∧ t = succeed { s with crc := Config.crcInit }) ∨
    (∃ b, i = .crcUpd b ∧ t = succeed { s with crc := crc8Step s.crc b }) ∨
    (i = .statClr ∧ t = succeed (clearStatus s)) ∨
    (∃ c, i = .capSet c ∧ t = succeed { s with cap := c }) := by
  have plain : ∀ (o : WireOp) (p : List Byte), i.fields.kind = 0b00#2 → ¬ isPrintForm i →
      (p.length ≤ 2 ∨ p.length = 11) → (i ≠ .setWifi → 1 ≤ p.length) → frameRequest o p s = .next t →
      EmitsFrame i s t :=
    fun o p hk hp hl hw h => ⟨o, p, hk, by simpa [frameRequest] using h.symm, .inl ⟨hp, hl, hw⟩⟩
  have print : ∀ (o : WireOp) (want : Bool), i.fields.kind = 0b00#2 → isPrintForm i →
      printRequest o want s = .next t → EmitsFrame i s t ∨ ∃ k, isPrintForm i ∧ t = fail k s := fun o want hk hi h =>
    (printRequest_next h).elim (fun ⟨k, _, ht⟩ => .inr ⟨k, hi, ht⟩)
      (fun ⟨p, he, hp, ht⟩ => .inl ⟨o, p, hk, ht, .inr ⟨hi, (printError_eq_none.mp he).1, hp⟩⟩)
  cases i with
  | printRaw => exact (print .printUncompressed false rfl (.inl rfl) h).imp_right .inl
  | printRle => exact (print .printCompressed true rfl (.inr rfl) h).imp_right .inl
  | lineEnc c => exact .inr (.inr (.inl ⟨c, rfl, by simpa [exec, execLineEnc] using h.symm⟩))
  | crcClr => exact .inr (.inr (.inr (.inl ⟨rfl, by simpa [exec, execCrcClr] using h.symm⟩)))
  | crcUpd b => exact .inr (.inr (.inr (.inr (.inl ⟨b, rfl, by simpa [exec, execCrcUpd] using h.symm⟩))))
  | statClr => exact .inr (.inr (.inr (.inr (.inr (.inl ⟨rfl, by simpa [exec, execStatClr] using h.symm⟩)))))
  | capSet c => exact .inr (.inr (.inr (.inr (.inr (.inr ⟨c, rfl, by simpa [exec, execCapSet] using h.symm⟩)))))
  | _ => exact .inl (plain _ _ rfl (by simp) (by simp [feedPayload, bytePayload, zeroPayload, energyPayload,
      flowStartPayload, flowStopPayload, emptyPayload, Config.latticeStart, Config.latticeEnd])
      (by simp [feedPayload, bytePayload, zeroPayload, energyPayload,
      flowStartPayload, flowStopPayload, emptyPayload, Config.latticeStart, Config.latticeEnd]) h)

/-! Requests and steps. -/

theorem perform_ok {r : Request} {s : State} {i : Instr} (h : decode r.word = .ok i) :
    perform r s = exec i { s with ink := r.ink } := by
  simp [perform, h]

theorem perform_error {r : Request} {s : State} {k : ErrCode} (h : decode r.word = .error k) :
    perform r s = .next (fail k { s with ink := r.ink }) := by
  simp [perform, h]

/-- What running a presented request is. -/
theorem step_offer (s : State) (w : Word) (ink : Ink) :
    step (s.offer w ink) = perform ⟨w, ink⟩ { s with outstanding := none } := rfl

/-- The step from s completes a request, answering t: its effect from s with the channel idle and the host's and the
environment's lists moved on. -/
abbrev CompletesInto (s t : State) : Prop :=
  s.env.head? ≠ some .rst ∧ ∃ r host env, completedRequest s = some r ∧
    perform r { s with outstanding := none, host := host, env := env } = .next t

/-- The step from s to t completes no request (it holds one, answers a read, or idles): only the channel's fields change,
and no read is answered while a request is outstanding. -/
abbrev CompletesNothing (s t : State) : Prop :=
  s.env.head? ≠ some .rst ∧ ∃ outstanding host env ink reads, completedRequest s = none ∧
    (s.outstanding ≠ none → reads = s.reads) ∧
    t = { s with outstanding := outstanding, host := host, env := env, ink := ink, reads := reads }

/-- What `advance` can do when it answers a next state: complete the next request, or, with none, answer a read or idle. -/
theorem advance_next {s t : State} (h : advance s = .next t) :
    (∃ r host, nextRequest s = some r ∧ perform r { s with outstanding := none, host := host } = .next t) ∨
    (nextRequest s = none ∧ ∃ host reads, (s.outstanding ≠ none → reads = s.reads) ∧
      t = { s with host := host, reads := reads }) := by
  unfold advance at h
  unfold nextRequest
  split at h
  next r ho => exact .inl ⟨r, s.host, by simp, h⟩
  next ho =>
    split at h
    next hh => exact .inr ⟨by simp [hh], s.host, s.reads, by simp, by simpa using h.symm⟩
    next a rest hh =>
      exact .inr ⟨by simp [hh], rest, s.reads ++ [readPort a { s with host := rest }], fun hn => absurd ho hn,
        (Host.Outcome.next.inj h).symm⟩
    next r rest hh => exact .inl ⟨r, rest, by simp [hh], h⟩

/-- What `hold` can do: at most accept a request or answer a read, and no read while a request is outstanding. -/
theorem hold_changes (s : State) : ∃ outstanding host ink reads, (s.outstanding ≠ none → reads = s.reads) ∧
    hold s = { s with outstanding := outstanding, host := host, ink := ink, reads := reads } := by
  unfold hold
  split
  next r ho => exact ⟨s.outstanding, s.host, s.ink, s.reads, by simp, rfl⟩
  next ho =>
    split
    next hh => exact ⟨s.outstanding, s.host, s.ink, s.reads, by simp, rfl⟩
    next a rest hh =>
      exact ⟨s.outstanding, rest, s.ink, s.reads ++ [readPort a { s with host := rest }], fun hn => absurd ho hn, rfl⟩
    next r rest hh => exact ⟨some r, rest, r.ink, s.reads, by simp, rfl⟩

/-- An outstanding request is held as it is (R133). -/
theorem hold_outstanding {s : State} {r : Request} (h : s.outstanding = some r) : hold s = s := by
  simp [hold, h]

/-- Downstream stuck: a request that would emit a byte is held. -/
theorem stall_emitting {s : State} {r : Request} (h : nextRequest s = some r) (he : emitted r s ≠ []) :
    stall s = .next (hold s) := by
  simp [stall, h, he]

/-- Downstream stuck: a request that emits nothing goes on. -/
theorem stall_silent {s : State} {r : Request} (h : nextRequest s = some r) (he : emitted r s = []) :
    stall s = advance s := by
  simp [stall, h, he]

/-- Downstream stuck: without a request the block goes on. -/
theorem stall_none {s : State} (h : nextRequest s = none) : stall s = advance s := by
  simp [stall, h]

/-- What a step can do when it answers a next state. -/
theorem step_next {s t : State} (h : step s = .next t) :
    (∃ env, s.env = .rst :: env ∧ t = takeReset { s with env := env }) ∨ CompletesInto s t ∨ CompletesNothing s t := by
  have adv : ∀ env, advance { s with env := env } = .next t → s.env.head? ≠ some .rst →
      completedRequest s = nextRequest s → CompletesInto s t ∨ CompletesNothing s t := by
    intro env h hrst hc
    rcases advance_next h with ⟨r, host, hr, hp⟩ | ⟨hr, host, reads, hn, rfl⟩
    · exact .inl ⟨hrst, r, host, env, hc.trans hr, hp⟩
    · exact .inr ⟨hrst, s.outstanding, host, env, s.ink, reads, hc.trans hr, hn, rfl⟩
  have held : ∀ env, t = hold { s with env := env } → s.env.head? ≠ some .rst → completedRequest s = none →
      CompletesNothing s t := by
    intro env ht hrst hc
    obtain ⟨outstanding, host, ink, reads, hn, hh⟩ := hold_changes { s with env := env }
    exact ⟨hrst, outstanding, host, env, ink, reads, hc, hn, ht.trans hh⟩
  unfold step at h
  split at h
  next he =>
    have hs : s = { s with env := [] } := by rw [← he]
    split at h
    next hk =>
      cases hr : nextRequest s with
      | none =>
        rw [stall_none hr] at h
        exact .inr (adv [] (by rwa [← hs]) (by simp [he]) (by simp [completedRequest, he, hk, hr]))
      | some r =>
        by_cases hm : emitted r s = []
        · rw [stall_silent hr hm] at h
          exact .inr (adv [] (by rwa [← hs]) (by simp [he]) (by simp [completedRequest, he, hk, hr, hm]))
        · rw [stall_emitting hr hm] at h
          exact .inr (.inr (held [] (by rw [← hs]; simpa using h.symm) (by simp [he])
            (by simp [completedRequest, he, hk, hr, hm])))
    next hk => exact .inr (adv [] (by rwa [← hs]) (by simp [he]) (by simp [completedRequest, he, hk]))
  next env he => exact .inr (adv env h (by simp [he]) (by simp [completedRequest, he]))
  next env he => exact .inr (.inr (held env (by simpa using h.symm) (by simp [he]) (by simp [completedRequest, he])))
  next env he => exact .inl ⟨env, he, by simpa using h.symm⟩

end Sys2Proof.Machine
end

