-- ==== Sys2Proof/Laws/Line.lean ====
section
/-! SUPPORT. The small laws of the row packer, the run-length encoder and the selector (spec/42_line.md): what one bit of
a packed byte is, what the runs of a row are, what one code byte says, and how long a line is. -/

namespace Sys2Proof.Machine

/-! The packer (R98, R99). -/

@[simp] theorem length_pack (ink : Ink) : (pack ink).length = 48 := by simp [pack]

theorem packByte_bit (ink : Ink) (i j : Nat) (h : j < 8) :
    (packByte ink i).getLsbD j = inkBit ink (8 * i + j) := by
  have sum : ∀ b0 b1 b2 b3 b4 b5 b6 b7 : Bool, ∀ j : Fin 8,
      (BitVec.ofNat 8 ([b0.toNat <<< 0, b1.toNat <<< 1, b2.toNat <<< 2, b3.toNat <<< 3, b4.toNat <<< 4,
        b5.toNat <<< 5, b6.toNat <<< 6, b7.toNat <<< 7].sum)).getLsbD j =
        [b0, b1, b2, b3, b4, b5, b6, b7][j] := by decide +kernel
  have bits := sum (inkBit ink (8 * i + 0)) (inkBit ink (8 * i + 1)) (inkBit ink (8 * i + 2)) (inkBit ink (8 * i + 3))
    (inkBit ink (8 * i + 4)) (inkBit ink (8 * i + 5)) (inkBit ink (8 * i + 6)) (inkBit ink (8 * i + 7)) ⟨j, h⟩
  have list : packByte ink i = BitVec.ofNat 8 ([(inkBit ink (8 * i + 0)).toNat <<< 0,
      (inkBit ink (8 * i + 1)).toNat <<< 1, (inkBit ink (8 * i + 2)).toNat <<< 2,
      (inkBit ink (8 * i + 3)).toNat <<< 3, (inkBit ink (8 * i + 4)).toNat <<< 4,
      (inkBit ink (8 * i + 5)).toNat <<< 5, (inkBit ink (8 * i + 6)).toNat <<< 6,
      (inkBit ink (8 * i + 7)).toNat <<< 7].sum) := rfl
  rw [list, bits]
  interval_cases j <;> rfl

theorem inkBit_inkOf (f : Nat → Bool) (x : Nat) (h : x < 384) : inkBit (inkOf f) x = f x := by
  simp [inkBit, inkOf, h]

/-! The runs and the code bytes (R58, R100). -/

theorem runs_flatMap (bits : List Bool) : (runs bits).flatMap (fun r => List.replicate r.2 r.1) = bits := by
  induction bits with
  | nil => rfl
  | cons v bits ih =>
    unfold runs
    split
    next h => rw [h] at ih; simp at ih; simp [← ih]
    next u n rest h =>
      rw [h] at ih
      split_ifs with hu
      · subst hu; rw [← ih]; simp [List.replicate_succ]
      · rw [← ih]; simp

theorem runs_pos (bits : List Bool) : ∀ r ∈ runs bits, 1 ≤ r.2 := by
  induction bits with
  | nil => simp [runs]
  | cons v bits ih =>
    unfold runs
    split
    next h => simp
    next u n rest h =>
      rw [h] at ih
      split_ifs with hu <;> simp_all

theorem runs_alternate (bits : List Bool) : (runs bits).IsChain (fun r q => r.1 ≠ q.1) := by
  induction bits with
  | nil => simp [runs]
  | cons v bits ih =>
    unfold runs
    split
    next h => simp
    next u n rest h =>
      rw [h] at ih
      split_ifs with hu
      · subst hu
        cases rest with
        | nil => simp
        | cons a r => simpa [List.isChain_cons_cons] using ih
      · simp [List.isChain_cons_cons, hu, ih]

/-- What a code byte says: bit 7 the value, bits 6:0 the count. -/
theorem codeByte_spec (v : Bool) (n : Nat) (h : n < 128) :
    (codeByte v n).getLsbD 7 = v ∧ ((codeByte v n).extractLsb' 0 7).toNat = n := by
  have all : ∀ v : Bool, ∀ n : Fin 128,
      (codeByte v n).getLsbD 7 = v ∧ ((codeByte v n).extractLsb' 0 7).toNat = n := by decide +kernel
  exact all v ⟨n, h⟩

theorem length_runCodes (v : Bool) (n : Nat) : (runCodes v n).length = (n + 126) / 127 := by
  unfold runCodes
  split_ifs with h
  · simp at h ⊢; omega
  · simp at h ⊢; omega

theorem mem_runCodes {v : Bool} {n : Nat} {c : Byte} (h : c ∈ runCodes v n) :
    ∃ k, 1 ≤ k ∧ k ≤ 127 ∧ c = codeByte v k := by
  unfold runCodes at h
  simp at h
  rcases h with ⟨_, rfl⟩ | ⟨h, rfl⟩
  · exact ⟨127, by norm_num, by norm_num, rfl⟩
  · exact ⟨n % 127, h, by omega, rfl⟩

/-! The selector and the LINE group (R103, R105). -/

theorem length_select (ink : Ink) (ce : Bool) : (select ink ce).len ≤ 48 ∧ (select ink ce).buf.length = 48 := by
  unfold select
  split_ifs with h
  · have h : (rle ink).length ≤ 48 := by simp at h; exact h.2
    simp only [List.length_append, List.length_replicate]
    exact ⟨h, Nat.add_sub_cancel' h⟩
  · exact ⟨le_refl _, length_pack _⟩

/-- `LINE_BUF` after a line is written is the line's 48 bytes. -/
theorem lineBytes_writeLine (l : Line) (ink : Ink) (s : State) (h : l.buf.length = 48) :
    lineBytes (writeLine l ink s) = l.buf := by
  apply List.ext_getElem
  · simp [lineBytes, h]
  · intro i h1 h2
    simp [lineBytes] at h1
    simp [lineBytes, Memory.read_writeLineBuf, h1]
    rw [List.getElem?_eq_getElem h2]; rfl

@[simp] theorem lineBytes_succeed (s : State) : lineBytes (succeed s) = lineBytes s := rfl

end Sys2Proof.Machine
end

