-- ==== Sys2Proof/Laws/PerInstr.lean ====
section
/-! SUPPORT. A law of every instruction, one lemma a constructor: the instruction's word selects the row of its form in
the table of spec/30_encoding.md R61, `W & mask = match`. -/

namespace Sys2Proof.Laws.RowSelection

/-- The word of the instruction selects the row of its form. -/
def Statement (i : Instr) : Prop := i.row.selects (encode i) = true

theorem feedRev (b : Byte) : Statement (.feedRev b) := by
  have h : ∀ b : Byte, (Instr.feedRev b).row.selects (encode (.feedRev b)) = true := by decide +kernel
  exact h b

theorem feedFwd (b : Byte) : Statement (.feedFwd b) := by
  have h : ∀ b : Byte, (Instr.feedFwd b).row.selects (encode (.feedFwd b)) = true := by decide +kernel
  exact h b

theorem printRaw : Statement .printRaw := by unfold Statement; decide

theorem getStatus : Statement .getStatus := by unfold Statement; decide

theorem setQuality (b : Byte) : Statement (.setQuality b) := by
  have h : ∀ b : Byte, (Instr.setQuality b).row.selects (encode (.setQuality b)) = true := by decide +kernel
  exact h b

theorem latticeStart : Statement .latticeStart := by unfold Statement; decide

theorem latticeEnd : Statement .latticeEnd := by unfold Statement; decide

theorem getInfo : Statement .getInfo := by unfold Statement; decide

theorem updateDev : Statement .updateDev := by unfold Statement; decide

theorem setWifi : Statement .setWifi := by unfold Statement; decide

theorem flowStart : Statement .flowStart := by unfold Statement; decide

theorem flowStop : Statement .flowStop := by unfold Statement; decide

theorem setEnergy (e : BitVec 16) : Statement (.setEnergy e) := by
  simp only [Statement, FormRow.selects, Instr.row, beq_iff_eq, encode, assemble, Instr.fields, frameFields]
  refine BitVec.eq_of_getLsbD_eq fun i hi => ?_
  have h : i < 32 := hi
  simp only [BitVec.getLsbD_and, BitVec.getLsbD_or, BitVec.getLsbD_shiftLeft, BitVec.getLsbD_setWidth]
  interval_cases i <;> simp (decide := true) [WireOp.code, ReqKind.bits]

theorem deviceId (b : Byte) : Statement (.deviceId b) := by
  have h : ∀ b : Byte, (Instr.deviceId b).row.selects (encode (.deviceId b)) = true := by decide +kernel
  exact h b

theorem setSpeed (b : Byte) : Statement (.setSpeed b) := by
  have h : ∀ b : Byte, (Instr.setSpeed b).row.selects (encode (.setSpeed b)) = true := by decide +kernel
  exact h b

theorem setDrawMode (b : Byte) : Statement (.setDrawMode b) := by
  have h : ∀ b : Byte, (Instr.setDrawMode b).row.selects (encode (.setDrawMode b)) = true := by decide +kernel
  exact h b

theorem printRle : Statement .printRle := by unfold Statement; decide

theorem lineEnc (c : Bool) : Statement (.lineEnc c) := by unfold Statement; cases c <;> decide

theorem crcClr : Statement .crcClr := by unfold Statement; decide

theorem crcUpd (b : Byte) : Statement (.crcUpd b) := by
  have h : ∀ b : Byte, (Instr.crcUpd b).row.selects (encode (.crcUpd b)) = true := by decide +kernel
  exact h b

theorem statClr : Statement .statClr := by unfold Statement; decide

theorem capSet (c : Bool) : Statement (.capSet c) := by unfold Statement; cases c <;> decide

end Sys2Proof.Laws.RowSelection
end

