-- ==== Sys2Proof/Tests/Slice0.lean ====
section
/-! SUPPORT. The model's own tests. Words are written out bit by bit from the table of spec/30_encoding.md R61; expected
results are those of spec/95_test_vectors.md (the place is named at each), or counted by hand from the rules. The
last part shows, for every statement with hypotheses, a state and operands that meet them. -/

namespace Sys2Proof.Tests

/-! One theorem is checked at a time: checked all at once, each on a stack of its own, they need more memory than the check
grants. -/
set_option Elab.async false

open Sys2Proof Sys2Proof.Machine Sys2Proof.Claims

/-- The next state, where there is one. -/
def nextOf : Host.Outcome State Fault Refusal → Option State
  | .next t => some t
  | .fault _ => none
  | .refused _ => none

/-- The state after the one step that runs a word from s. -/
def ran (s : State) (w : Word) (ink : Ink := 0) : Option State := nextOf (step (s.offer w ink))

/-- Running the word from s answers the code and emits the bytes. -/
def gives (s : State) (w : Word) (code : Rsp) (bytes : List Byte) : Bool :=
  match ran s w with
  | some t => t.rsp == s.rsp ++ [code] && t.out == s.out ++ bytes
  | none => false

/-- Running the word from s ends in error: the code, `STATUS` as the read port shows it, and nothing emitted. -/
def errs (s : State) (w : Word) (code : Rsp) (status : Byte) : Bool :=
  match ran s w with
  | some t => t.rsp == s.rsp ++ [code] && readPort 0x00#8 t == status && t.out == s.out
  | none => false

/-- Reset with the capability set, as `CAP.SET 1` leaves it. -/
def capable : State := { State.reset with cap := true }

/-- Reset with a line whose flags and length are given. -/
def withLine (comp : Bool) (len : Nat) : State :=
  { State.reset with lineValid := true, lineComp := comp, lineLen := BitVec.ofNat 6 len }

/-- What `LINE.ENC 1` of a row leaves from `capable`. -/
def encoded (ink : Ink) : State :=
  succeed (writeLine (select ink true) ink { capable with ink := ink })

/-- `tie48` of 95_test_vectors.md L2-3: ink at even x below 45. -/
def tieRow : Ink := inkOf fun x => decide (x < 45) && x % 2 == 0

/-- `over49` of 95_test_vectors.md L2-3: ink at even x below 46 and at every x from 46. -/
def overRow : Ink := inkOf fun x => decide (46 ≤ x) || x % 2 == 0

/-- `nib` of 95_test_vectors.md L2-3: ink where x % 8 < 4. -/
def nibRow : Ink := inkOf fun x => decide (x % 8 < 4)

/-! ## Well-formedness: an ill-formed term for each check, which the check refuses -/

theorem test_wellFormed_rsvd : (fieldsOf 0x0000A208#32).rsvdOk = false ∧ (fieldsOf 0x0000A208#32).wellFormed = false := by
  decide

theorem test_wellFormed_op : (fieldsOf 0x0000A500#32).opOk = false ∧ (fieldsOf 0x00000203#32).opOk = false ∧
    (fieldsOf 0x00000101#32).opOk = false ∧ (fieldsOf 0x0000A500#32).wellFormed = false := by decide

theorem test_wellFormed_sel : (fieldsOf 0x0000A204#32).selOk = false ∧ (fieldsOf 0x00000007#32).selOk = false ∧
    (fieldsOf 0x0000A204#32).wellFormed = false := by decide

theorem test_wellFormed_arg : (fieldsOf 0x0100A000#32).argOk = false ∧ (fieldsOf 0x00010002#32).argOk = false ∧
    (fieldsOf 0x0100A000#32).wellFormed = false := by decide

theorem test_wellFormed_accepts : (fieldsOf 0xFFFFAF00#32).wellFormed = true ∧
    (fieldsOf 0x00FFA000#32).wellFormed = true ∧ (fieldsOf 0x00000005#32).wellFormed = true := by decide

/-! ## Decoding: one word of every form, bit by bit from R61 -/

theorem test_decode_feedRev : decode 0b00000000000010101010000000000000#32 = .ok (.feedRev 10#8) := by decide
theorem test_decode_feedFwd : decode 0b00000000000010101010000100000000#32 = .ok (.feedFwd 10#8) := by decide
theorem test_decode_printRaw : decode 0b00000000000000001010001000000000#32 = .ok (.printRaw) := by decide
theorem test_decode_getStatus : decode 0b00000000000000001010001100000000#32 = .ok (.getStatus) := by decide
theorem test_decode_setQuality : decode 0b00000000001100111010010000000000#32 = .ok (.setQuality 0x33#8) := by decide
theorem test_decode_latticeStart : decode 0b00000000000000001010011000000000#32 = .ok (.latticeStart) := by decide
theorem test_decode_latticeEnd : decode 0b00000000000000001010011000000100#32 = .ok (.latticeEnd) := by decide
theorem test_decode_getInfo : decode 0b00000000000000001010100000000000#32 = .ok (.getInfo) := by decide
theorem test_decode_updateDev : decode 0b00000000000000001010100100000000#32 = .ok (.updateDev) := by decide
theorem test_decode_setWifi : decode 0b00000000000000001010101000000000#32 = .ok (.setWifi) := by decide
theorem test_decode_flowStart : decode 0b00000000000000001010111000000000#32 = .ok (.flowStart) := by decide
theorem test_decode_flowStop : decode 0b00000000000000001010111000000100#32 = .ok (.flowStop) := by decide
theorem test_decode_setEnergy : decode 0b00010010001101001010111100000000#32 = .ok (.setEnergy 0x1234#16) := by decide
theorem test_decode_deviceId : decode 0b00000000000001011011101100000000#32 = .ok (.deviceId 5#8) := by decide
theorem test_decode_setSpeed : decode 0b00000000001000001011110100000000#32 = .ok (.setSpeed 0x20#8) := by decide
theorem test_decode_setDrawMode : decode 0b00000000000000011011111000000000#32 = .ok (.setDrawMode 1#8) := by decide
theorem test_decode_printRle : decode 0b00000000000000001011111100000000#32 = .ok (.printRle) := by decide
theorem test_decode_lineEnc : decode 0b00000000000000000000000000000101#32 = .ok (.lineEnc true) := by decide
theorem test_decode_crcClr : decode 0b00000000000000000000000000000010#32 = .ok (.crcClr) := by decide
theorem test_decode_crcUpd : decode 0b00000000001100010000000000000110#32 = .ok (.crcUpd 0x31#8) := by decide
theorem test_decode_statClr : decode 0b00000000000000000000000000000011#32 = .ok (.statClr) := by decide
theorem test_decode_capSet : decode 0b00000000000000000000000100000111#32 = .ok (.capSet true) := by decide

/-- The host numbers the bits of a row's word as R49 does; an illegal word is no instruction. -/
theorem test_decodeTableWord : decodeTableWord 32 0x000AA100 = some (.feedFwd 10#8) ∧
    decodeTableWord 32 0x0000A500 = none := by decide

/-! ## Frames (95_test_vectors.md L2-2) -/

theorem test_feedRev_frame : gives capable 0x000AA000#32 0#3
    [0x51#8, 0x78#8, 0xA0#8, 0x00#8, 0x02#8, 0x00#8, 0x0A#8, 0x00#8, 0x82#8, 0xFF#8] = true := by decide +kernel

theorem test_feedFwd_frame : gives capable 0x00FFA100#32 0#3
    [0x51#8, 0x78#8, 0xA1#8, 0x00#8, 0x02#8, 0x00#8, 0xFF#8, 0x00#8, 0xD7#8, 0xFF#8] = true := by decide +kernel

theorem test_getStatus_frame : gives capable 0x0000A300#32 0#3
    [0x51#8, 0x78#8, 0xA3#8, 0x00#8, 0x01#8, 0x00#8, 0x00#8, 0x00#8, 0xFF#8] = true := by decide +kernel

theorem test_setQuality_frame : gives capable 0x0033A400#32 0#3
    [0x51#8, 0x78#8, 0xA4#8, 0x00#8, 0x01#8, 0x00#8, 0x33#8, 0x99#8, 0xFF#8] = true := by decide +kernel

theorem test_latticeStart_frame : gives capable 0x0000A600#32 0#3
    [0x51#8, 0x78#8, 0xA6#8, 0x00#8, 0x0B#8, 0x00#8, 0xAA#8, 0x55#8, 0x17#8, 0x38#8, 0x44#8,
      0x5F#8, 0x5F#8, 0x5F#8, 0x44#8, 0x38#8, 0x2C#8, 0xA1#8, 0xFF#8] = true := by decide +kernel

theorem test_latticeEnd_frame : gives capable 0x0000A604#32 0#3
    [0x51#8, 0x78#8, 0xA6#8, 0x00#8, 0x0B#8, 0x00#8, 0xAA#8, 0x55#8, 0x17#8,
      0x00#8, 0x00#8, 0x00#8, 0x00#8, 0x00#8, 0x00#8, 0x00#8, 0x17#8, 0x11#8, 0xFF#8] = true := by decide +kernel

theorem test_getInfo_frame : gives capable 0x0000A800#32 0#3
    [0x51#8, 0x78#8, 0xA8#8, 0x00#8, 0x01#8, 0x00#8, 0x00#8, 0x00#8, 0xFF#8] = true := by decide +kernel

theorem test_updateDev_frame : gives capable 0x0000A900#32 0#3
    [0x51#8, 0x78#8, 0xA9#8, 0x00#8, 0x01#8, 0x00#8, 0x00#8, 0x00#8, 0xFF#8] = true := by decide +kernel

theorem test_setWifi_frame : gives capable 0x0000AA00#32 0#3
    [0x51#8, 0x78#8, 0xAA#8, 0x00#8, 0x00#8, 0x00#8, 0x00#8, 0xFF#8] = true := by decide +kernel

theorem test_flowStart_frame : gives capable 0x0000AE00#32 0#3
    [0x51#8, 0x78#8, 0xAE#8, 0x00#8, 0x01#8, 0x00#8, 0x00#8, 0x00#8, 0xFF#8] = true := by decide +kernel

theorem test_flowStop_frame : gives capable 0x0000AE04#32 0#3
    [0x51#8, 0x78#8, 0xAE#8, 0x00#8, 0x01#8, 0x00#8, 0x10#8, 0x70#8, 0xFF#8] = true := by decide +kernel

theorem test_setEnergy_frame : gives capable 0x2EE0AF00#32 0#3
    [0x51#8, 0x78#8, 0xAF#8, 0x00#8, 0x02#8, 0x00#8, 0xE0#8, 0x2E#8, 0x89#8, 0xFF#8] = true := by decide +kernel

theorem test_deviceId_frame : gives capable 0x0005BB00#32 0#3
    [0x51#8, 0x78#8, 0xBB#8, 0x00#8, 0x01#8, 0x00#8, 0x05#8, 0x1B#8, 0xFF#8] = true := by decide +kernel

theorem test_setSpeed_frame : gives capable 0x0020BD00#32 0#3
    [0x51#8, 0x78#8, 0xBD#8, 0x00#8, 0x01#8, 0x00#8, 0x20#8, 0xE0#8, 0xFF#8] = true := by decide +kernel

theorem test_setDrawMode_frame : gives capable 0x0001BE00#32 0#3
    [0x51#8, 0x78#8, 0xBE#8, 0x00#8, 0x01#8, 0x00#8, 0x01#8, 0x07#8, 0xFF#8] = true := by decide +kernel

/-- `tie48`: a 48-byte stream stays compressed (conflict C2). -/
theorem test_printRle_tie : gives (encoded tieRow) 0x0000BF00#32 0#3
    ([0x51#8, 0x78#8, 0xBF#8, 0x00#8, 0x30#8, 0x00#8] ++ (List.replicate 22 [0x81#8, 0x01#8]).flatten ++
      [0x81#8, 0x7F#8, 0x7F#8, 0x55#8, 0x3C#8, 0xFF#8]) = true := by decide +kernel

/-- `over49`: a 49-byte stream falls back to the packed form. -/
theorem test_printRaw_over : gives (encoded overRow) 0x0000A200#32 0#3
    ([0x51#8, 0x78#8, 0xA2#8, 0x00#8, 0x30#8, 0x00#8, 0x55#8, 0x55#8, 0x55#8, 0x55#8, 0x55#8, 0xD5#8] ++
      List.replicate 42 0xFF#8 ++ [0x7A#8, 0xFF#8]) = true := by decide +kernel

/-! ## The checksum unit (95_test_vectors.md L2-1) -/

theorem test_crc8_message : crc8 [0x31#8, 0x32#8, 0x33#8, 0x34#8, 0x35#8, 0x36#8, 0x37#8, 0x38#8, 0x39#8] = 0xF4#8 := by
  decide +kernel

theorem test_crcUpd_folds : (ran { State.reset with crc := 0x97#8 } 0x00320006#32).map (·.crc) = some 0x72#8 := by
  decide +kernel

theorem test_crcClr : (ran { State.reset with crc := 0xC7#8 } 0x00000002#32).map (·.crc) = some 0x00#8 := by decide +kernel

/-- A frame leaves `CRC` alone (R74). -/
theorem test_frame_keeps_crc : (ran { State.reset with crc := 0xC7#8 } 0x0000A300#32).map (·.crc) = some 0xC7#8 := by
  decide +kernel

/-! ## The line encoder (95_test_vectors.md L2-3) -/

theorem test_pack_rows : pack nibRow = List.replicate 48 0x0F#8 ∧
    pack (firstPixels 127) = List.replicate 15 0xFF#8 ++ 0x7F#8 :: List.replicate 32 0x00#8 ∧
    pack (onePixel 383) = List.replicate 47 0x00#8 ++ [0x80#8] := by decide +kernel

theorem test_rle_rows : rle (firstPixels 254) = [0xFF#8, 0xFF#8, 0x7F#8, 0x03#8] ∧
    rle (onePixel 7) = [0x07#8, 0x81#8, 0x7F#8, 0x7F#8, 0x7A#8] ∧ (rle nibRow).length = 96 ∧
    (rle tieRow).length = 48 ∧ (rle overRow).length = 49 := by decide +kernel

/-- `LINE.ENC 1` of `x0` with `CAP` = 1, as the read port shows it (L2-4). -/
theorem test_lineEnc_compressed : (ran capable 0x00000005#32 (onePixel 0)).map (fun t =>
      [0x02#8, 0x03#8, 0x10#8, 0x11#8, 0x12#8, 0x13#8, 0x14#8, 0x15#8].map fun a => readPort a t) =
    some [0x03#8, 0x05#8, 0x81#8, 0x7F#8, 0x7F#8, 0x7F#8, 0x02#8, 0x00#8] := by decide +kernel

/-- Without the capability the row is packed whatever c is, over whatever the buffer held (L2-3, R134). -/
theorem test_lineEnc_packed : (ran { encoded 0 with cap := false } 0x00000005#32 (BitVec.allOnes 384)).map (fun t =>
      (readPort 0x02#8 t, readPort 0x03#8 t, lineBytes t)) =
    some (0x01#8, 0x30#8, List.replicate 48 0xFF#8) := by decide +kernel

/-! ## Control and the read port (L2-4) -/

theorem test_statClr : (ran { State.reset with statusErr := true, statusCode := 4#3 } 0x00000003#32).map
    (fun t => (readPort 0x00#8 t, t.rsp)) = some (0x00#8, [0#3]) := by decide +kernel

theorem test_capSet : (ran State.reset 0x00000107#32).map (readPort 0x04#8) = some 0x01#8 ∧
    (ran capable 0x00000103#32).map (readPort 0x04#8) = some 0x00#8 := by decide +kernel

/-! ## Errors (L2-5) -/

theorem test_errors_of_words : (
    [0x0000A508#32, 0xFFFFFFFF#32, 0x0100A200#32, 0x0000A204#32, 0x0001AF04#32, 0x0001A604#32, 0x0000AA04#32,
     0x00000203#32, 0x00000007#32, 0x00010103#32, 0x00010001#32, 0x01000006#32, 0x00010002#32].all
      fun w => errs State.reset w 1#3 0x03#8) = true ∧
    errs State.reset 0x0000A500#32 2#3 0x05#8 = true ∧ errs State.reset 0x00000000#32 2#3 0x05#8 = true := by
  decide +kernel

theorem test_errors_of_prints : errs State.reset 0x0000A200#32 3#3 0x07#8 = true ∧
    errs State.reset 0x0000BF00#32 3#3 0x07#8 = true ∧ errs (encoded 0) 0x0000A200#32 4#3 0x09#8 = true ∧
    errs (withLine false 48) 0x0000BF00#32 4#3 0x09#8 = true := by decide +kernel

/-- The first error's code stays (R116, R118). -/
theorem test_first_error_stays :
    errs { State.reset with statusErr := true, statusCode := 2#3 } 0x0000A508#32 1#3 0x05#8 = true := by decide +kernel

/-! ## The channel, reset, assembler text -/

/-- A request waits, then completes with the row it was presented with (R133, R137). -/
theorem test_wait_then_complete :
    (match runFor 3 { capable with
        host := [presentRow true 0, .read 0x03#8], env := [.wait, .wait, .go] } with
      | .next t => (t.rsp, t.lineLen, t.reads, t.host.length)
      | _ => ([], 0, [], 0)) = ([0#3], 4#6, [], 1) := by decide +kernel

/-- A downstream that never takes a byte holds `GETSTATUS`, and the `CRC.CLR` after it with it (R133, U7). -/
theorem test_stuck_downstream :
    (match runFor 5 { State.reset with host := [present .getStatus, present .crcClr], downstreamStuck := true } with
      | .next t => t.out == [] && t.rsp == [] && t.outstanding.isSome && t.host.length == 1
      | _ => false) = true := by decide +kernel

/-- `RST` drops what is outstanding: no answer, every register at its reset value (R127, R128). -/
theorem test_reset_drops_outstanding :
    (match runFor 2 { encoded 0 with host := [present .crcClr], env := [.wait, .rst] } with
      | .next t => t.rsp == [] && t.out == [] && !t.cap && !t.lineValid && lineBytes t == List.replicate 48 0x00#8
      | _ => false) = true := by decide +kernel

theorem test_asm_forms :
    asmLine "FEED.FWD 10        ; 0x000AA100" = some (.action (.request ⟨0x000AA100#32, 0⟩)) ∧
    asmLine "SETENERGY 0x2EE0" = some (.action (.request ⟨0x2EE0AF00#32, 0⟩)) ∧
    asmLine "LINE.ENC 1, ink:ones" = some (.action (.request ⟨0x00000005#32, BitVec.allOnes 384⟩)) ∧
    asmLine "RD 0x01" = some (.action (.read 0x01#8)) ∧ asmLine "; a comment" = some .nothing := by decide +kernel

theorem test_asm_ink_bytes : asmLine
    "LINE.ENC 1, ink:555555555515000000000000000000000000000000000000000000000000000000000000000000000000000000000000" =
    some (.action (.request ⟨0x00000005#32, tieRow⟩)) := by decide +kernel

theorem test_asm_pseudo : asmLine "CRC.BUF 0x31, 0x32" = some (.pseudo (.crcBuf [0x31#8, 0x32#8])) ∧
    asmLine "FLOW stop" = some (.pseudo (.flow false)) ∧ asmLine "PRINT" = some (.pseudo .print) ∧
    asmLine "FEED.FWD 256" = none := by decide +kernel

/-! ## Witnesses: for every statement with hypotheses, what meets them -/


/-- A request of a word with nothing on INK. -/
def request (w : Word) : Request := ⟨w, 0⟩

/-- s with a request held outstanding and what the environment does next. -/
def holding (w : Word) (env : List EnvSample) (s : State) : State :=
  { s with outstanding := some (request w), env := env }

/-- Reset with `GETSTATUS` presented and a downstream that takes no byte. -/
def stuck : State := { State.reset with host := [.request (request 0x0000A300#32)], downstreamStuck := true }

theorem lineEnc_completes (c : Bool) (ink : Ink) : ∃ s t : State, s.ink = ink ∧ exec (.lineEnc c) s = .next t :=
  ⟨{ State.reset with ink := ink }, _, rfl, rfl⟩

/-- The three cases of R30, each by a state `LINE.ENC` or reset leaves. -/
theorem blank_ok : LineBlank State.reset := by unfold LineBlank; decide +kernel

theorem compressed_ok : LineCompressed (encoded 0) ∧ LineCompressed (encoded tieRow) := by
  unfold LineCompressed; decide +kernel

theorem packed_ok : LinePacked (encoded overRow) := by unfold LinePacked; decide +kernel

theorem witness_LegalWordIsTheEncodingOfItsInstruction :
    decode 0xFFFFAF00#32 = .ok (.setEnergy 0xFFFF#16) := by decide

/-- Two of its clauses have hypotheses: a word that selects a row, and words of every class that select none. -/
theorem witness_RequestFormsFollowTheTable :
    (requestTable.any fun r => r.selects 0x000AA100#32) = true ∧
    ([0x00000000#32, 0x00000101#32, 0x00000102#32, 0x00000203#32].all fun w =>
      requestTable.all fun r => !r.selects w) = true := by decide +kernel

/-- Both sides of the equivalence are met. -/
theorem witness_DecodeSucceedsExactlyOnWellFormedFields :
    (fieldsOf 0x00FFA000#32).wellFormed = true ∧ (fieldsOf 0x0100A000#32).wellFormed = false := by decide

/-- A word for each clause: a reserved bit, an unassigned `OP`, `OP` at 2 and at 255 in the CTRL class, a must-be-zero bit
beside an assigned `OP`. -/
theorem witness_IllegalWordsAnswerTheCodeOfTheirClass :
    ([0x0000A508#32, 0x0000A500#32, 0x00000203#32, 0x0100A200#32].all fun w =>
      requestTable.all fun r => !r.selects w) = true ∧
    (fieldsOf 0x0000A508#32).rsvd ≠ 0 ∧
    ((fieldsOf 0x0000A500#32).rsvd = 0 ∧ (fieldsOf 0x0000A500#32).kind = 0b00#2 ∧
      WireOp.ofByte? (fieldsOf 0x0000A500#32).op = none) ∧
    ((fieldsOf 0x00000203#32).kind = 0b11#2 ∧ (fieldsOf 0x00000203#32).op.toNat = 2) ∧
    ((fieldsOf 0x0000FF03#32).kind = 0b11#2 ∧ (fieldsOf 0x0000FF03#32).op.toNat = 255) ∧
    ((fieldsOf 0x0100A200#32).opOk = true ∧ (fieldsOf 0x0100A200#32).wellFormed = false) := by decide +kernel

/-- A word for each decoding clause, and a state for each check of a print request. -/
theorem witness_FirstCauseIsReported :
    (fieldsOf 0x0000A508#32).rsvd ≠ 0 ∧
    ((fieldsOf 0x0000A500#32).rsvd = 0 ∧ (fieldsOf 0x0000A500#32).kind = 0b00#2 ∧
      WireOp.ofByte? (fieldsOf 0x0000A500#32).op = none) ∧
    ((fieldsOf 0x0100A200#32).rsvd = 0 ∧ WireOp.ofByte? (fieldsOf 0x0100A200#32).op ≠ none ∧
      (fieldsOf 0x0100A200#32).wellFormed = false) ∧
    (IsPrint .printRaw ∧ IsPrint .printRle ∧ State.reset.lineValid = false) ∧
    ((encoded 0).lineValid = true ∧ (encoded 0).lineComp = true) ∧
    ((withLine false 48).lineValid = true ∧ (withLine false 48).lineComp = false) := by
  unfold IsPrint; decide +kernel

/-- The illegal words of the forms with a byte operand: each of the three causes, for each opcode. -/
theorem witness_FeedFormsCarryLengthThenZero : ∀ op ∈ [0xA0#8, 0xA1#8],
    HasKindOp (op.setWidth 32 <<< 8 ||| 0x01000000#32) 0#2 op ∧
    (op.setWidth 32 <<< 8 ||| 0x01000000#32).extractLsb' 24 8 ≠ 0#8 ∧
    HasKindOp (op.setWidth 32 <<< 8 ||| 0x0000000C#32) 0#2 op ∧
    (fieldsOf (op.setWidth 32 <<< 8 ||| 0x0000000C#32)).sel = true ∧
    (fieldsOf (op.setWidth 32 <<< 8 ||| 0x0000000C#32)).rsvd ≠ 0 := by unfold HasKindOp; decide +kernel

theorem witness_SettingFormsCarryTheirByteAsGiven : ∀ op ∈ [0xA4#8, 0xBB#8, 0xBD#8, 0xBE#8],
    HasKindOp (op.setWidth 32 <<< 8 ||| 0x01000000#32) 0#2 op ∧
    (op.setWidth 32 <<< 8 ||| 0x01000000#32).extractLsb' 24 8 ≠ 0#8 ∧
    HasKindOp (op.setWidth 32 <<< 8 ||| 0x0000000C#32) 0#2 op ∧
    (fieldsOf (op.setWidth 32 <<< 8 ||| 0x0000000C#32)).sel = true ∧
    (fieldsOf (op.setWidth 32 <<< 8 ||| 0x0000000C#32)).rsvd ≠ 0 := by unfold HasKindOp; decide +kernel

theorem witness_QueryFormsCarryASingleZeroByte : ∀ op ∈ [0xA3#8, 0xA8#8, 0xA9#8],
    HasKindOp (op.setWidth 32 <<< 8 ||| 0x0001000C#32) 0#2 op ∧
    (fieldsOf (op.setWidth 32 <<< 8 ||| 0x0001000C#32)).arg ≠ 0 ∧
    (fieldsOf (op.setWidth 32 <<< 8 ||| 0x0001000C#32)).sel = true ∧
    (fieldsOf (op.setWidth 32 <<< 8 ||| 0x0001000C#32)).rsvd ≠ 0 := by unfold HasKindOp; decide +kernel

/-- Both selectors of the forms that `SEL` selects, each with a bit of `ARG` and a reserved bit set. -/
theorem witness_LatticeFormsEmitTheFixedPatterns :
    (HasKindOp 0x0001A608#32 0#2 0xA6#8 ∧ (fieldsOf 0x0001A608#32).sel = false ∧ (fieldsOf 0x0001A608#32).arg ≠ 0 ∧
      (fieldsOf 0x0001A608#32).rsvd ≠ 0) ∧
    (HasKindOp 0x0001A60C#32 0#2 0xA6#8 ∧ (fieldsOf 0x0001A60C#32).sel = true ∧ (fieldsOf 0x0001A60C#32).arg ≠ 0 ∧
      (fieldsOf 0x0001A60C#32).rsvd ≠ 0) := by unfold HasKindOp; decide

theorem witness_FlowFormsEmitTheirFlagByte :
    (HasKindOp 0x0001AE08#32 0#2 0xAE#8 ∧ (fieldsOf 0x0001AE08#32).sel = false ∧ (fieldsOf 0x0001AE08#32).arg ≠ 0 ∧
      (fieldsOf 0x0001AE08#32).rsvd ≠ 0) ∧
    (HasKindOp 0x0001AE0C#32 0#2 0xAE#8 ∧ (fieldsOf 0x0001AE0C#32).sel = true ∧ (fieldsOf 0x0001AE0C#32).arg ≠ 0 ∧
      (fieldsOf 0x0001AE0C#32).rsvd ≠ 0) := by unfold HasKindOp; decide

/-- The illegal words, and two instructions from a state of R30: one that emits nothing, one that emits a frame. -/
theorem witness_SetWifiEmitsTheOneEmptyPayload :
    (HasKindOp 0x0001AA0C#32 0#2 0xAA#8 ∧ (fieldsOf 0x0001AA0C#32).arg ≠ 0 ∧ (fieldsOf 0x0001AA0C#32).sel = true ∧
      (fieldsOf 0x0001AA0C#32).rsvd ≠ 0) ∧
    (LineOk State.reset ∧ (∃ t, exec .crcClr State.reset = .next t ∧ t.out = State.reset.out) ∧
      ∃ t, exec .getStatus State.reset = .next t ∧ State.reset.out.length + 8 < t.out.length) :=
  ⟨by unfold HasKindOp; decide, .inl blank_ok, ⟨_, rfl, rfl⟩, ⟨_, rfl, by decide +kernel⟩⟩

theorem witness_SetEnergyEmitsLittleEndian :
    HasKindOp 0x0001AF0C#32 0#2 0xAF#8 ∧ (fieldsOf 0x0001AF0C#32).sel = true ∧
    (fieldsOf 0x0001AF0C#32).rsvd ≠ 0 := by unfold HasKindOp; decide

/-- A state for each check, the lengths 0 and 48 among them; the illegal words; a line of R30; a row `LINE.ENC` encodes. -/
theorem witness_PrintRawEmitsThePackedLine :
    ((withLine false 48).lineValid = true ∧ (withLine false 48).lineComp = false ∧ (withLine false 48).lineLen.toNat = 48) ∧
    ((withLine false 0).lineValid = true ∧ (withLine false 0).lineComp = false ∧ (withLine false 0).lineLen.toNat = 0) ∧
    State.reset.lineValid = false ∧ ((encoded 0).lineValid = true ∧ (encoded 0).lineComp = true) ∧
    (HasKindOp 0x0001A20C#32 0#2 0xA2#8 ∧ (fieldsOf 0x0001A20C#32).arg ≠ 0 ∧ (fieldsOf 0x0001A20C#32).sel = true ∧
      (fieldsOf 0x0001A20C#32).rsvd ≠ 0) ∧
    (LineOk (encoded overRow) ∧ (encoded overRow).lineValid = true ∧ (encoded overRow).lineComp = false) ∧
    (∃ s t : State, s.ink = evenRow ∧ exec (.lineEnc true) s = .next t) :=
  ⟨by decide, by decide, rfl, ⟨rfl, by decide +kernel⟩, by unfold HasKindOp; decide,
    ⟨.inr (.inl packed_ok), by decide +kernel⟩, lineEnc_completes true evenRow⟩

/-- As above; `tie48` is the line whose `LEN` is 48. -/
theorem witness_PrintRleEmitsTheRunLengthStream :
    ((withLine true 48).lineValid = true ∧ (withLine true 48).lineComp = true ∧ (withLine true 48).lineLen.toNat = 48) ∧
    ((withLine true 0).lineValid = true ∧ (withLine true 0).lineComp = true ∧ (withLine true 0).lineLen.toNat = 0) ∧
    State.reset.lineValid = false ∧ ((withLine false 48).lineValid = true ∧ (withLine false 48).lineComp = false) ∧
    (HasKindOp 0x0001BF0C#32 0#2 0xBF#8 ∧ (fieldsOf 0x0001BF0C#32).arg ≠ 0 ∧ (fieldsOf 0x0001BF0C#32).sel = true ∧
      (fieldsOf 0x0001BF0C#32).rsvd ≠ 0) ∧
    (LineOk (encoded tieRow) ∧ (encoded tieRow).lineValid = true ∧ (encoded tieRow).lineComp = true ∧
      (encoded tieRow).lineLen.toNat = 48) ∧
    (∃ s t : State, s.ink = 0 ∧ s.cap = true ∧ exec (.lineEnc true) s = .next t) :=
  ⟨by decide, by decide, rfl, by decide, by unfold HasKindOp; decide,
    ⟨.inr (.inr compressed_ok.2), by decide +kernel⟩, ⟨capable, _, rfl, rfl, rfl⟩⟩

/-- A frame that is emitted, and a print that ends in error; frame forms that are prints and that are not. -/
theorem witness_FrameRequestsTouchOnlyTheirOwnState :
    (IsFrameForm .getStatus ∧ ¬ IsPrint .getStatus ∧ ∃ t, exec .getStatus State.reset = .next t) ∧
    (IsFrameForm .printRaw ∧ ∃ t, exec .printRaw State.reset = .next t) :=
  ⟨⟨rfl, by unfold IsPrint; decide, _, rfl⟩, rfl, _, rfl⟩

theorem witness_FrameChecksumIgnoresTheCrcRegister :
    IsFrameForm (.setSpeed 0x20#8) ∧ ∃ t, exec (.setSpeed 0x20#8) { State.reset with crc := 0xC2#8 } = .next t :=
  ⟨rfl, _, rfl⟩

/-- The shortest and the longest payload. -/
theorem witness_FramesAreDelimitedByTheirLengthByte :
    ([] : List Byte).length ≤ 48 ∧ (List.replicate 48 0xFF#8).length = 48 := by decide

theorem witness_EmittedFramesHaveTheFrameShape :
    (∃ t, perform (request 0x0000A300#32) State.reset = .next t ∧ t.out ≠ State.reset.out) ∧
    WholeFrames State.reset.out ∧ ∃ t, step (State.reset.offer 0x0000A300#32 0) = .next t :=
  ⟨⟨_, rfl, by decide +kernel⟩, ⟨[], by simp, rfl⟩, _, rfl⟩

/-- One case emits nothing, the others a frame, the longest one 56 bytes. -/
theorem witness_PayloadsNeverExceed48Bytes :
    (∃ t, exec .crcClr State.reset = .next t) ∧ (∃ t, exec .latticeEnd State.reset = .next t) ∧
    (nextOf (exec .printRle (encoded tieRow))).map (fun t => t.out.length) = some 56 :=
  ⟨⟨_, rfl⟩, ⟨_, rfl⟩, by decide +kernel⟩

theorem witness_CrcClrClearsTheAccumulator :
    (fieldsOf 0x00010102#32).kind = 0b10#2 ∧ (fieldsOf 0x00010102#32).sel = false ∧
    (fieldsOf 0x00010102#32).op ≠ 0 ∧ (fieldsOf 0x00010102#32).arg ≠ 0 ∧ (fieldsOf 0x0000000A#32).kind = 0b10#2 ∧
    (fieldsOf 0x0000000A#32).sel = false ∧ (fieldsOf 0x0000000A#32).rsvd ≠ 0 := by decide

theorem witness_CrcUpdFoldsInOneByte :
    (fieldsOf 0x0100000E#32).kind = 0b10#2 ∧ (fieldsOf 0x0100000E#32).sel = true ∧
    (0x0100000E#32).extractLsb' 24 8 ≠ 0#8 ∧ (fieldsOf 0x0100000E#32).rsvd ≠ 0 := by decide

theorem witness_ChecksumLaws : [0x0A#8, 0x00#8].length = [0x31#8, 0x32#8].length := by decide

/-- A row of 48 bytes, the first and the last pixel, the first and the last byte. -/
theorem witness_PackIsABijection :
    (List.replicate 48 0x55#8).length = 48 ∧ 0 < 384 ∧ 383 < 384 ∧ 0 < 48 ∧ 47 < 48 := by decide

/-- A code byte and a run of a row. -/
theorem witness_RunLengthLaws : 0x03#8 ∈ rle 0 ∧ (false, 384) ∈ runs (inkRow 0) := by decide +kernel

/-- The illegal words; a row, with the capability, whose stream has 4, 48 and 49 bytes; index 0, 47 and 48. -/
theorem witness_LineEncWritesTheSelectedLine :
    ((fieldsOf 0x00010109#32).kind = 0b01#2 ∧ (fieldsOf 0x00010109#32).op ≠ 0 ∧ (fieldsOf 0x00010109#32).arg ≠ 0 ∧
      (fieldsOf 0x00010109#32).rsvd ≠ 0) ∧
    (capable.cap = true ∧ capable.ink = 0 ∧ (rle capable.ink).length ≤ 48) ∧
    (rle tieRow).length = 48 ∧ (rle overRow).length = 49 ∧ 0 < 48 ∧ 47 < 48 ∧ 48 ≤ 48 := by decide +kernel

/-- A line that is compressed, and a stream of 49 bytes. -/
theorem witness_EncodedLineIsNeverLargerThanPacked :
    (∃ t, exec (.lineEnc true) { capable with ink := tieRow } = .next t ∧ t.lineComp = true) ∧
    (∃ t, exec (.lineEnc true) { capable with ink := overRow } = .next t) ∧ 48 < (rle overRow).length :=
  ⟨⟨_, rfl, by decide +kernel⟩, ⟨_, rfl⟩, by decide +kernel⟩

theorem witness_PrintedPayloadRecoversTheRow :
    ∃ t u : State, exec (.lineEnc true) capable = .next t ∧ exec (.capSet false) t = .next u ∧ u.lineComp = true :=
  ⟨_, _, rfl, rfl, by decide +kernel⟩

/-- The illegal words, and `STATUS` = 05. -/
theorem witness_StatClrClearsTheStatus :
    (HasKindOp 0x0001000F#32 3#2 0x00#8 ∧ (fieldsOf 0x0001000F#32).sel = true ∧ (fieldsOf 0x0001000F#32).arg ≠ 0 ∧
      (fieldsOf 0x0001000F#32).rsvd ≠ 0) ∧
    ((fieldsOf 0x00000203#32).kind = 3#2 ∧ (fieldsOf 0x00000203#32).op.toNat = 2) ∧
    statusByte { State.reset with statusErr := true, statusCode := 2#3 } = 0x05#8 := by unfold HasKindOp; decide

theorem witness_CapSetWritesTheCapability :
    (HasKindOp 0x0001010B#32 3#2 0x01#8 ∧ (fieldsOf 0x0001010B#32).arg ≠ 0 ∧ (fieldsOf 0x0001010B#32).rsvd ≠ 0) ∧
    ∃ t u : State, exec (.capSet true) State.reset = .next t ∧ t.ink = 0 ∧ exec (.lineEnc true) t = .next u :=
  ⟨by unfold HasKindOp; decide, _, _, rfl, rfl, rfl⟩

/-- The ends of each range of addresses; a read with the channel idle; a read behind an outstanding request; the two
requests of the last clause. -/
theorem witness_ReadPortAnswersTheRegisterMap :
    (0 < 48 ∧ 47 < 48) ∧
    ([0x05#8, 0x0F#8, 0x40#8, 0xFF#8].all fun a =>
      decide (4 < a.toNat ∧ a.toNat < 0x10 ∨ 0x3F < a.toNat)) = true ∧
    (∃ s : State, s.outstanding = none ∧ s.host = [.read 0x00#8] ∧ s.env = [.wait] ∧ ¬ ResetArrives s) ∧
    (∃ s t : State, s.outstanding = some (request 0x00000002#32) ∧ ¬ ResetArrives s ∧ step s = .next t) ∧
    (∃ t u : State, State.reset.ink = 0 ∧ exec (.capSet true) State.reset = .next t ∧ exec (.lineEnc true) t = .next u) :=
  ⟨by decide, by decide, ⟨{ State.reset with host := [.read 0x00#8], env := [.wait] }, rfl, rfl, rfl, by unfold ResetArrives; decide⟩,
    ⟨holding 0x00000002#32 [.wait] State.reset, _, rfl, by unfold ResetArrives; decide, rfl⟩, _, _, rfl, rfl, rfl⟩

/-- Both forms of a line. -/
theorem witness_PrintPseudoPicksTheLegalForm :
    (LineOk (encoded 0) ∧ (encoded 0).lineValid = true) ∧
    (LineOk (encoded overRow) ∧ (encoded overRow).lineValid = true) :=
  ⟨⟨.inr (.inr compressed_ok.1), rfl⟩, .inr (.inl packed_ok), rfl⟩

theorem witness_CrcBufLeavesTheChecksumOfItsBytes :
    ∃ s : State, s.outstanding = none ∧ s.env = [] ∧
      s.host = (Pseudo.crcBuf [0x31#8, 0x32#8]).expand 0x00#8 ++ [.read 0x01#8] :=
  ⟨{ State.reset with host := (Pseudo.crcBuf [0x31#8, 0x32#8]).expand 0x00#8 ++ [.read 0x01#8] }, rfl, rfl, rfl⟩

/-- A word of each decoding error; a request that succeeds and one that ends in error. -/
theorem witness_ErrorEntryDoesExactlyFail :
    decode 0x0000A508#32 = .error .rsvd ∧ decode 0x0000A500#32 = .error .opcode ∧
    (∃ t, perform (request 0x00000002#32) State.reset = .next t ∧ t.rsp = State.reset.rsp ++ [0#3]) ∧
    (∃ t, perform (request 0x0000A200#32) State.reset = .next t ∧ t.rsp = State.reset.rsp ++ [3#3]) :=
  ⟨by decide, by decide, ⟨_, rfl, by decide +kernel⟩, _, rfl, by decide +kernel⟩

/-- An error stands, and the step runs another request that ends in error too. -/
theorem witness_ErrorStaysUntilClearOrReset :
    (∃ s t : State, s.statusErr = true ∧ step s = .next t ∧ ¬ ResetArrives s ∧ ¬ Completes s .statClr) ∧
    (∃ s t : State, s.statusErr = true ∧ perform (request 0x0000A508#32) s = .next t ∧ t.rsp = s.rsp ++ [1#3]) :=
  ⟨⟨holding 0x0000A508#32 [.go] { State.reset with statusErr := true, statusCode := 2#3 }, _, rfl, rfl,
    by unfold ResetArrives; decide, by rintro ⟨r, hr, hd⟩; cases hr; revert hd; decide⟩,
    { State.reset with statusErr := true, statusCode := 2#3 }, _, rfl, rfl, rfl⟩

/-- For each clause a step that changes what the clause speaks of. -/
theorem witness_EachRegisterHasItsOwnWriters :
    (ran State.reset 0x00310006#32).any (fun t => t.crc != 0x00#8 && t.rsp != []) = true ∧
    (ran State.reset 0x00000005#32 (BitVec.allOnes 384)).any (fun t => t.lineValid && t.lineBuf != []) = true ∧
    (ran State.reset 0x00000107#32).any (fun t => t.cap) = true ∧
    (ran State.reset 0x0000A300#32).any (fun t => t.out != []) = true ∧
    (ran State.reset 0x0000A500#32).any (fun t => t.statusErr) = true ∧
    (∀ w ink, ¬ ResetArrives (State.reset.offer w ink)) :=
  ⟨by decide +kernel, by decide +kernel, by decide +kernel, by decide +kernel, by decide +kernel,
    fun _ _ h => by cases h⟩

/-- `LEN` = 49 stops a print, 48 does not. -/
theorem witness_OnlyAnOverlongLineStopsARequest :
    exec .printRaw (withLine false 49) = .fault .lineIndexOutOfRange ∧
    exec .printRle (withLine true 49) = .fault .lineIndexOutOfRange ∧
    ∃ t, exec .printRaw (withLine false 48) = .next t := ⟨rfl, rfl, _, rfl⟩

theorem witness_StepRunsTheDecodedInstruction :
    decode 0x000AA100#32 = .ok (.feedFwd 10#8) ∧ decodeTableWord 32 0x000AA100 = some (.feedFwd 10#8) ∧
    (∃ s : State, s.outstanding = none ∧ s.host = [.request (request 0x000AA100#32)] ∧ s.env = [] ∧
      s.downstreamStuck = false) ∧
    (∃ s : State, s.outstanding = some (request 0x000AA100#32) ∧ s.env = [.go]) :=
  ⟨by decide, by decide, ⟨{ State.reset with host := [.request (request 0x000AA100#32)] }, rfl, rfl, rfl, rfl⟩,
    holding 0x000AA100#32 [.go] State.reset, rfl, rfl⟩

theorem witness_IdleBlockHoldsItsState :
    State.reset.outstanding = none ∧ State.reset.host = [] ∧ ¬ ResetArrives State.reset := by
  unfold ResetArrives; decide

/-- No wait and two waits. -/
theorem witness_HeldRequestWaitsWithoutLosingBytes :
    (holding 0x0000A300#32 [.go] State.reset).outstanding = some (request 0x0000A300#32) ∧
    (holding 0x0000A300#32 [.go] State.reset).env = List.replicate 0 .wait ++ [.go] ∧
    (holding 0x0000A300#32 [.wait, .wait, .go] State.reset).env = List.replicate 2 .wait ++ [.go] :=
  ⟨rfl, rfl, rfl⟩

/-- A frame request and downstream stuck, outstanding and presented, and a request that emits nothing. -/
theorem witness_StuckDownstreamHoldsAFrameForEver :
    (holding 0x0000A300#32 [.wait] stuck).outstanding = some (request 0x0000A300#32) ∧
    (holding 0x0000A300#32 [.wait] stuck).env = List.replicate 1 .wait ∧
    (holding 0x0000A300#32 [.wait] stuck).downstreamStuck = true ∧
    emitted (request 0x0000A300#32) (holding 0x0000A300#32 [.wait] stuck) ≠ [] ∧
    (stuck.outstanding = none ∧ stuck.host = [.request (request 0x0000A300#32)] ∧ stuck.env = [] ∧
      emitted (request 0x0000A300#32) stuck ≠ []) ∧
    ((holding 0x00000002#32 [] stuck).env = [] ∧
      emitted (request 0x00000002#32) (holding 0x00000002#32 [] stuck) = []) :=
  ⟨rfl, rfl, rfl, by decide +kernel, ⟨rfl, rfl, rfl, by decide +kernel⟩, rfl, by decide +kernel⟩

theorem witness_AcceptedRequestKeepsItsSampledInputs :
    ∃ s t : State, s.outstanding = none ∧ s.host = [presentRow true 1] ∧ s.env = [.wait, .go] ∧ step s = .next t :=
  ⟨{ State.reset with host := [presentRow true 1], env := [.wait, .go] }, _, rfl, rfl, rfl, rfl⟩

theorem witness_HeldReadAnswersWithTheStateTheRequestLeft :
    ∃ s t : State, s.outstanding = some (request 0x00310006#32) ∧ s.host = [.read 0x01#8] ∧
      s.env = List.replicate 1 .wait ++ [.go, .go] ∧
      perform (request 0x00310006#32) { s with outstanding := none, env := [.go] } = .next t :=
  ⟨{ holding 0x00310006#32 [.wait, .go, .go] State.reset with host := [.read 0x01#8] }, _, rfl, rfl, rfl, rfl⟩

theorem witness_ResetGivesEveryRegisterItsValue :
    ∃ s t : State, ResetArrives s ∧ step s = .next t ∧ s.crc = 0xC7#8 :=
  ⟨{ encoded 0 with crc := 0xC7#8, env := [.rst] }, _, rfl, rfl, rfl⟩

/-- With the channel idle, and with a frame request outstanding. -/
theorem witness_ResetAbandonsTheOutstandingRequest :
    (∃ s t : State, ResetArrives s ∧ step s = .next t ∧ s.outstanding = none) ∧
    (∃ s t u : State, ResetArrives s ∧ step s = .next t ∧ s.outstanding = some (request 0x0000A300#32) ∧
      perform (request 0x0000A300#32) s = .next u ∧ u.out ≠ s.out) :=
  ⟨⟨{ State.reset with env := [.rst] }, _, rfl, rfl, rfl⟩,
    holding 0x0000A300#32 [.rst] State.reset, _, _, rfl, rfl, rfl, rfl, by decide +kernel⟩

/-- Each case of R30 is met, and a step runs from it. -/
theorem witness_LineGroupStaysInOneOfItsThreeCases :
    LineBlank State.reset ∧ LinePacked (encoded overRow) ∧ LineCompressed (encoded 0) ∧
    (∃ t, step (State.reset.offer 0x00000005#32 0) = .next t) :=
  ⟨blank_ok, packed_ok, compressed_ok.1, _, rfl⟩

/-- With an error noted, and a step that ends in another. -/
theorem witness_StatusAndResponsesStayLegal :
    ∃ s t : State, StatusOk s ∧ RspOk s ∧ s.statusErr = true ∧ s.rsp = [2#3] ∧ step s = .next t :=
  ⟨holding 0x0000A508#32 [.go] { State.reset with statusErr := true, statusCode := 2#3, rsp := [2#3] }, _,
    ⟨by decide, by decide⟩, by unfold RspOk; decide, rfl, rfl, rfl⟩

theorem witness_LineBufferStaysCanonical :
    (encoded 0).lineBuf.wf ∧ (encoded 0).out <:+ (encoded 0).sent ∧ (encoded 0).lineBuf ≠ [] ∧
    ∃ t, step (encoded 0) = .next t :=
  ⟨by decide +kernel, ⟨[], rfl⟩, by decide +kernel, _, rfl⟩

theorem witness_OutputIsAppendOnly :
    ∃ s t : State, step s = .next t ∧ ¬ ResetArrives s ∧ t.out ≠ s.out :=
  ⟨State.reset.offer 0x0000A300#32 0, _, rfl, by unfold ResetArrives; decide, by decide +kernel⟩

/-- The invariant is met by a state with a line, an error and a held request. -/
theorem witness_BlockNeverStopsFromALegalState :
    Inv (holding 0x0000BF00#32 [.wait, .go] (fail .printMode (encoded 0))) where
  status := ⟨by decide +kernel, by decide +kernel⟩
  line := .inr (.inr (by unfold LineCompressed; decide +kernel))
  mem := by decide +kernel
  out := ⟨[], by simp, by decide +kernel⟩
  sent := by decide +kernel
  rsp := by unfold RspOk; decide +kernel

end Sys2Proof.Tests
end

/-! # Proofs: the state (spec/10_state.md). What a step leaves of the registers, who writes each of them, and the
invariants of the LINE group and of `STATUS`. -/

section
namespace Sys2Proof.Machine

open Sys2Proof.Claims

/-! ## What a step does to the registers -/

/-- u is s but for the request channel, the bus and the read port: every register, and every byte emitted or code
answered, is as in s. -/
def SameRegisters (s u : State) : Prop :=
  ∃ outstanding host env ink reads,
    u = { s with outstanding := outstanding, host := host, env := env, ink := ink, reads := reads }

/-- A step is a reset, or it completes an instruction, or it completes an illegal word by the error entry, or it leaves
every register alone; and it finds the registers as s holds them. -/
theorem step_next_registers {s t : State} (h : step s = .next t) :
    (ResetArrives s ∧ ∃ u, t = takeReset u) ∨
    (∃ i u, Completes s i ∧ SameRegisters s u ∧ exec i u = .next t) ∨
    (∃ r k u, completedRequest s = some r ∧ SameRegisters s u ∧ t = fail k u) ∨
    SameRegisters s t := by
  rcases step_next h with ⟨env, he, rfl⟩ | ⟨-, r, host, env, hr, hp⟩ | ⟨-, o, host, env, ink, reads, -, -, rfl⟩
  · exact .inl ⟨by simp [ResetArrives, he], _, rfl⟩
  · refine .inr ?_
    cases hd : decode r.word with
    | ok i =>
      rw [perform_ok hd] at hp
      exact .inl ⟨i, _, ⟨r, hr, hd⟩, ⟨none, host, env, r.ink, s.reads, rfl⟩, hp⟩
    | error k =>
      rw [perform_error hd] at hp
      exact .inr (.inl ⟨r, k, _, hr, ⟨none, host, env, r.ink, s.reads, rfl⟩, (Host.Outcome.next.inj hp).symm⟩)
  · exact .inr (.inr (.inr ⟨o, host, env, ink, reads, rfl⟩))

/-- A property of the registers that holds after reset, and that every instruction and the error entry keep, is kept
by every step. -/
theorem step_keeps {P : State → Prop} (hsame : ∀ {s u}, SameRegisters s u → P s → P u)
    (hreset : ∀ s, P (takeReset s)) (hexec : ∀ {i s t}, exec i s = .next t → P s → P t)
    (hfail : ∀ k s, P s → P (fail k s)) {s t : State} (hs : P s) (h : step s = .next t) : P t := by
  rcases step_next_registers h with ⟨-, u, rfl⟩ | ⟨i, u, -, hu, he⟩ | ⟨r, k, u, -, hu, rfl⟩ | hst
  · exact hreset u
  · exact hexec he (hsame hu hs)
  · exact hfail k u (hsame hu hs)
  · exact hsame hst hs

/-! ## Who writes each register -/

/-- `CRC` is written by `CRC.CLR` and `CRC.UPD` alone (R20). -/
theorem exec_crc {i : Instr} {s t : State} (h : exec i s = .next t) :
    t.crc = s.crc ∨ i = .crcClr ∨ ∃ b, i = .crcUpd b := by
  rcases exec_next h with ⟨_, _, _, rfl, _⟩ | ⟨_, _, rfl⟩ | ⟨_, _, rfl⟩ | ⟨hi, -⟩ | ⟨b, hi, -⟩ | ⟨_, rfl⟩ | ⟨_, _, rfl⟩
  case inr.inr.inr.inl => exact .inr (.inl hi)
  case inr.inr.inr.inr.inl => exact .inr (.inr ⟨b, hi⟩)
  all_goals exact .inl rfl

/-- `CAP` is written by `CAP.SET` alone (R25). -/
theorem exec_cap {i : Instr} {s t : State} (h : exec i s = .next t) : t.cap = s.cap ∨ ∃ c, i = .capSet c := by
  rcases exec_next h with ⟨_, _, _, rfl, _⟩ | ⟨_, _, rfl⟩ | ⟨_, _, rfl⟩ | ⟨_, rfl⟩ | ⟨_, _, rfl⟩ | ⟨_, rfl⟩ | ⟨c, hi, -⟩
  case inr.inr.inr.inr.inr.inr => exact .inr ⟨c, hi⟩
  all_goals exact .inl rfl

/-- `OUT` is written by a frame form alone (R38). -/
theorem exec_out {i : Instr} {s t : State} (h : exec i s = .next t) : t.out = s.out ∨ IsFrameForm i := by
  rcases exec_next h with ⟨_, _, hk, _⟩ | ⟨_, _, rfl⟩ | ⟨_, _, rfl⟩ | ⟨_, rfl⟩ | ⟨_, _, rfl⟩ | ⟨_, rfl⟩ | ⟨_, _, rfl⟩
  case inl => exact .inr hk
  all_goals exact .inl rfl

/-- The LINE group of R30, with the record of the last row encoded, is the same in both states. -/
def SameLine (s t : State) : Prop :=
  t.lineValid = s.lineValid ∧ t.lineComp = s.lineComp ∧ t.lineLen = s.lineLen ∧ t.lineBuf = s.lineBuf ∧ t.row = s.row

theorem sameLine_refl (s : State) : SameLine s s := ⟨rfl, rfl, rfl, rfl, rfl⟩

theorem SameRegisters.sameLine {s u : State} (h : SameRegisters s u) : SameLine s u := by
  obtain ⟨_, _, _, _, _, rfl⟩ := h
  exact sameLine_refl s

theorem sameLine_fail (k : ErrCode) (s : State) : SameLine s (fail k s) := sameLine_refl s

/-- The LINE group is written by `LINE.ENC` alone (R22 to R24). -/
theorem exec_line {i : Instr} {s t : State} (h : exec i s = .next t) :
    SameLine s t ∨
    ∃ c, i = .lineEnc c ∧ t = succeed (writeLine (select s.ink (effectiveCompression c s.cap)) s.ink s) := by
  rcases exec_next h with
    ⟨_, _, _, rfl, _⟩ | ⟨_, _, rfl⟩ | henc | ⟨_, rfl⟩ | ⟨_, _, rfl⟩ | ⟨_, rfl⟩ | ⟨_, _, rfl⟩
  case inr.inr.inl => exact .inr henc
  all_goals exact .inl (sameLine_refl s)

/-- `STATUS` and `RSP`: an instruction answers success and leaves `STATUS` alone, or it ends in error, or it is
`STAT.CLR` (R21, R114). -/
theorem exec_status {i : Instr} {s t : State} (h : exec i s = .next t) :
    (t.statusErr = s.statusErr ∧ t.statusCode = s.statusCode ∧ t.rsp = s.rsp ++ [rspOk]) ∨
    (∃ k, t = fail k s) ∨
    (i = .statClr ∧ t = succeed (clearStatus s)) := by
  rcases exec_next h with
    ⟨_, _, _, rfl, _⟩ | ⟨k, _, hf⟩ | ⟨_, _, rfl⟩ | ⟨_, rfl⟩ | ⟨_, _, rfl⟩ | hclr | ⟨_, _, rfl⟩
  case inr.inl => exact .inr (.inl ⟨k, hf⟩)
  case inr.inr.inr.inr.inr.inl => exact .inr (.inr hclr)
  all_goals exact .inl ⟨rfl, rfl, rfl⟩

/-! ## The LINE group (R30) -/

/-- A row's code bytes carry at most 127 pixels each (R58). -/
theorem length_le_length_rleBits (bits : List Bool) : bits.length ≤ 127 * (rleBits bits).length := by
  have pixels_le_codes : ∀ rs : List (Bool × Nat), (rs.flatMap fun r => List.replicate r.2 r.1).length ≤
      127 * (rs.flatMap fun r => runCodes r.1 r.2).length := by
    intro rs
    induction rs with
    | nil => simp
    | cons r rs ih =>
      simp only [List.flatMap_cons, List.length_append, List.length_replicate, length_runCodes]
      omega
  simpa only [runs_flatMap, rleBits] using pixels_le_codes (runs bits)

/-- The shortest stream of a row: 384 pixels need four code bytes (R101). -/
theorem four_le_length_rle (ink : Ink) : 4 ≤ (rle ink).length := by
  have h := length_le_length_rleBits (inkRow ink)
  have row : (inkRow ink).length = 384 := by simp [inkRow]
  rw [row] at h
  unfold rle
  omega

/-- What the selector picks: the packed row, or the run-length stream with zeros after it (R103). -/
theorem select_cases (ink : Ink) (ce : Bool) :
    select ink ce = ⟨false, 48, pack ink⟩ ∨
    ((rle ink).length ≤ 48 ∧ select ink ce =
      ⟨true, (rle ink).length, rle ink ++ List.replicate (48 - (rle ink).length) 0x00#8⟩) := by
  unfold select
  split_ifs with h
  · simp only [Bool.and_eq_true, decide_eq_true_eq] at h
    exact .inr ⟨h.2, rfl⟩
  · exact .inl rfl

/-- The cases of R30 speak of the LINE group alone. -/
theorem SameLine.lineOk {s t : State} (h : SameLine s t) (hs : LineOk s) : LineOk t := by
  obtain ⟨hv, hc, hl, hb, hr⟩ := h
  have bytes : lineBytes t = lineBytes s := by rw [lineBytes, lineBytes, hb]
  unfold LineOk LineBlank LinePacked LineCompressed
  rw [hv, hc, hl, hr, bytes]
  exact hs

/-- Case (a) of R30 is the reset state. -/
theorem lineBlank_takeReset (s : State) : LineBlank (takeReset s) :=
  ⟨rfl, rfl, rfl, rfl⟩

/-- `LINE.ENC` leaves case (b) or case (c) of R30, whatever the LINE group held. -/
theorem lineOk_writeLine (ink : Ink) (ce : Bool) (s : State) : LineOk (writeLine (select ink ce) ink s) := by
  have bytes := lineBytes_writeLine (select ink ce) ink s (length_select ink ce).2
  rcases select_cases ink ce with hsel | ⟨hle, hsel⟩ <;> rw [hsel] at bytes ⊢
  · exact .inr (.inl ⟨rfl, rfl, rfl, bytes⟩)
  · have len : (BitVec.ofNat 6 (rle ink).length).toNat = (rle ink).length := by
      rw [BitVec.toNat_ofNat]
      omega
    refine .inr (.inr ⟨rfl, rfl, ?_⟩)
    simpa [bytes, len] using And.intro (four_le_length_rle ink) hle

theorem exec_keeps_lineOk {i : Instr} {s t : State} (h : exec i s = .next t) (hs : LineOk s) : LineOk t := by
  rcases exec_line h with hsame | ⟨c, -, rfl⟩
  · exact hsame.lineOk hs
  · exact lineOk_writeLine _ _ _

/-- The cases of R30 exclude each other by their flags. -/
theorem lineOk_exclusive {s : State} (h : LineOk s) :
    (LineBlank s ∧ ¬ LinePacked s ∧ ¬ LineCompressed s) ∨ (¬ LineBlank s ∧ LinePacked s ∧ ¬ LineCompressed s) ∨
    (¬ LineBlank s ∧ ¬ LinePacked s ∧ LineCompressed s) := by
  have blank_not_packed : LineBlank s → ¬ LinePacked s := fun ⟨hv, _⟩ ⟨hv', _⟩ => by simp [hv] at hv'
  have blank_not_compressed : LineBlank s → ¬ LineCompressed s := fun ⟨hv, _⟩ ⟨hv', _⟩ => by simp [hv] at hv'
  have packed_not_compressed : LinePacked s → ¬ LineCompressed s :=
    fun ⟨_, hc, _⟩ ⟨_, hc', _⟩ => by simp [hc] at hc'
  rcases h with ha | hb | hc
  · exact .inl ⟨ha, blank_not_packed ha, blank_not_compressed ha⟩
  · exact .inr (.inl ⟨fun ha => blank_not_packed ha hb, hb, packed_not_compressed hb⟩)
  · exact .inr (.inr ⟨fun ha => blank_not_compressed ha hc, fun hb => packed_not_compressed hb hc, hc⟩)

/-! ## `STATUS` and `RSP` (R21, R114) -/

theorem code_legal (k : ErrCode) : k.code ≠ 0#3 ∧ k.code.toNat ≤ 4 := by
  cases k <;> decide

theorem RspOk.append {s t : State} {code : Rsp} (hs : RspOk s) (hc : code.toNat ≤ 4) (h : t.rsp = s.rsp ++ [code]) :
    RspOk t := by
  intro r hr
  rw [h, List.mem_append, List.mem_singleton] at hr
  rcases hr with hr | rfl
  · exact hs r hr
  · exact hc

/-- `CODE` is one of 0 to 4, 0 exactly when `ERR` is 0, and every code answered is one of 0 to 4. -/
def CodesOk (s : State) : Prop := StatusOk s ∧ RspOk s

theorem SameRegisters.codesOk {s u : State} (h : SameRegisters s u) (hs : CodesOk s) : CodesOk u := by
  obtain ⟨_, _, _, _, _, rfl⟩ := h
  exact hs

theorem codesOk_takeReset (s : State) : CodesOk (takeReset s) :=
  ⟨by simp [StatusOk], by simp [RspOk]⟩

/-- The error entry keeps the codes legal: the first error's code is kept, a new one is 1 to 4 (R116). -/
theorem codesOk_fail (k : ErrCode) (s : State) (hs : CodesOk s) : CodesOk (fail k s) := by
  obtain ⟨⟨hle, hzero⟩, hrsp⟩ := hs
  obtain ⟨hk, hk4⟩ := code_legal k
  refine ⟨?_, hrsp.append hk4 rfl⟩
  unfold StatusOk
  rw [fail_statusErr, fail_statusCode]
  cases he : s.statusErr with
  | true => simpa [he] using And.intro hle hzero
  | false => simpa using And.intro hk4 hk

theorem exec_keeps_codesOk {i : Instr} {s t : State} (h : exec i s = .next t) (hs : CodesOk s) : CodesOk t := by
  obtain ⟨hstatus, hrsp⟩ := hs
  rcases exec_status h with ⟨he, hc, hr⟩ | ⟨k, rfl⟩ | ⟨-, rfl⟩
  · exact ⟨by rwa [StatusOk, he, hc], hrsp.append (by decide) hr⟩
  · exact codesOk_fail k s ⟨hstatus, hrsp⟩
  · exact ⟨by simp [StatusOk], hrsp.append (code := rspOk) (by decide) rfl⟩

/-! ## The obligations of spec/10_state.md -/

/-- Settles O47: reset is case (a), `LINE.ENC` leaves case (b) or (c), and nothing else touches the LINE group. -/
theorem lineGroupStaysInOneOfItsThreeCases : Obligations.LineGroupStaysInOneOfItsThreeCases :=
  ⟨.inl ⟨rfl, rfl, rfl, rfl⟩,
    fun _ _ hs h => step_keeps (P := LineOk) (fun hu => hu.sameLine.lineOk) (fun s => .inl (lineBlank_takeReset s))
      exec_keeps_lineOk (fun k s => (sameLine_fail k s).lineOk) hs h,
    fun _ => lineOk_exclusive⟩

/-- Settles O48: the error entry answers 1 to 4, every success 0, and only the first error's code is noted. -/
theorem statusAndResponsesStayLegal : Obligations.StatusAndResponsesStayLegal :=
  fun _ _ hstatus hrsp h => step_keeps (P := CodesOk) SameRegisters.codesOk codesOk_takeReset exec_keeps_codesOk
    codesOk_fail ⟨hstatus, hrsp⟩ h

/-- Settles O38: the step completes an instruction, which is a writer of what it changes; or it completes an illegal word,
which changes `STATUS` and `RSP` alone; or it changes no register. -/
theorem eachRegisterHasItsOwnWriters : Obligations.EachRegisterHasItsOwnWriters := by
  intro s t h hrst
  rcases step_next_registers h with ⟨hr, -⟩ | ⟨i, u, hi, hu, he⟩ | ⟨r, k, u, hr, hu, rfl⟩ | hst
  · exact absurd hr hrst
  · obtain ⟨_, _, _, _, _, rfl⟩ := hu
    have ⟨r, hr, _⟩ := hi
    refine ⟨fun hne => ?crc, fun hne => ?line, fun hne => ?cap, fun hne => ?out, fun hne => ?status, fun _ => ⟨r, hr⟩⟩
    case crc =>
      rcases (exec_crc he).resolve_left hne with rfl | ⟨b, rfl⟩
      · exact .inl hi
      · exact .inr ⟨b, hi⟩
    case line =>
      rcases exec_line he with ⟨hv, hc, hl, hb, hw⟩ | ⟨c, rfl, -⟩
      · simp [hv, hc, hl, hb, hw] at hne
      · exact ⟨c, hi⟩
    case cap =>
      obtain ⟨c, rfl⟩ := (exec_cap he).resolve_left hne
      exact ⟨c, hi⟩
    case out => exact ⟨i, (exec_out he).resolve_left hne, hi⟩
    case status =>
      rcases exec_status he with ⟨hse, hsc, -⟩ | ⟨k, rfl⟩ | ⟨rfl, -⟩
      · simp [hse, hsc] at hne
      · exact .inr ⟨r, k.code, hr, (code_legal k).1, rfl⟩
      · exact .inl hi
  · obtain ⟨_, _, _, _, _, rfl⟩ := hu
    simp only [fail_crc, fail_lineValid, fail_lineComp, fail_lineLen, fail_lineBuf, fail_row, fail_cap, fail_out,
      ne_eq, not_true, or_self, false_implies, true_and]
    exact ⟨fun _ => .inr ⟨r, k.code, hr, (code_legal k).1, rfl⟩, fun _ => ⟨r, hr⟩⟩
  · obtain ⟨_, _, _, _, _, rfl⟩ := hst
    simp

end Sys2Proof.Machine
end

/-! # Proofs: the memory and the request channel (spec/20_memory.md). The line buffer's canonical form, the bytes handed
downstream, what stops a request, and the request a step runs. -/

section
namespace Sys2Proof.Machine

open Sys2Proof.Claims

/-! ## What is handed downstream (R38, R128) -/

/-- From s to t some bytes, possibly none, were emitted: appended to `OUT` and to the record of bytes handed
downstream. -/
def Appends (s t : State) : Prop := ∃ bytes, t.out = s.out ++ bytes ∧ t.sent = s.sent ++ bytes

theorem Appends.of_eq {s t : State} (hout : t.out = s.out) (hsent : t.sent = s.sent) : Appends s t :=
  ⟨[], by rw [hout, List.append_nil], by rw [hsent, List.append_nil]⟩

theorem Appends.sent_prefix {s t : State} (h : Appends s t) : s.sent <+: t.sent := by
  obtain ⟨bytes, -, hsent⟩ := h
  exact ⟨bytes, hsent.symm⟩

/-- The same bytes at both ends: `OUT` stays the end of the record. -/
theorem Appends.out_suffix {s t : State} (h : Appends s t) (hs : s.out <:+ s.sent) : t.out <:+ t.sent := by
  obtain ⟨bytes, hout, hsent⟩ := h
  obtain ⟨earlier, hearlier⟩ := hs
  exact ⟨earlier, by rw [hout, hsent, ← hearlier, List.append_assoc]⟩

/-- An instruction emits its frame through `emit`, which appends to both, or it leaves both alone. -/
theorem exec_appends {i : Instr} {s t : State} (h : exec i s = .next t) : Appends s t := by
  rcases exec_next h with
    ⟨o, p, -, rfl, -⟩ | ⟨_, _, rfl⟩ | ⟨_, _, rfl⟩ | ⟨_, rfl⟩ | ⟨_, _, rfl⟩ | ⟨_, rfl⟩ | ⟨_, _, rfl⟩
  case inl => exact ⟨frame o.code p, rfl, rfl⟩
  all_goals exact .of_eq rfl rfl

theorem perform_appends {r : Request} {s t : State} (h : perform r s = .next t) : Appends s t := by
  cases hd : decode r.word with
  | ok i =>
    rw [perform_ok hd] at h
    exact (exec_appends h :)
  | error k =>
    rw [perform_error hd] at h
    cases h
    exact .of_eq rfl rfl

/-- A step is a reset, which empties `OUT` and recalls nothing, or it appends to both (R38, R128). -/
theorem step_out_sent {s t : State} (h : step s = .next t) :
    (ResetArrives s ∧ t.out = [] ∧ s.sent <+: t.sent) ∨ Appends s t := by
  rcases step_next h with ⟨env, he, rfl⟩ | ⟨-, r, host, env, -, hp⟩ | ⟨-, _, _, _, _, _, -, -, rfl⟩
  · exact .inl ⟨by simp [ResetArrives, he], rfl, _, rfl⟩
  · exact .inr (perform_appends hp :)
  · exact .inr (.of_eq rfl rfl)

/-! ## The line buffer (R35) -/

/-- `LINE.ENC` alone writes the line buffer, and it keeps the canonical form. -/
theorem exec_keeps_wf {i : Instr} {s t : State} (h : exec i s = .next t) (hs : s.lineBuf.wf) : t.lineBuf.wf := by
  rcases exec_line h with ⟨-, -, -, hb, -⟩ | ⟨c, -, rfl⟩
  · rwa [hb]
  · exact Memory.wf_writeLineBuf _ _ hs

theorem step_keeps_wf {s t : State} (hs : s.lineBuf.wf) (h : step s = .next t) : t.lineBuf.wf :=
  step_keeps (P := fun s => s.lineBuf.wf) (fun ⟨_, _, _, _, _, hu⟩ hs => by rwa [hu]) (fun _ => Memory.wf_nil)
    exec_keeps_wf (fun _ _ hs => hs) hs h

/-! ## What stops a request (R30, R35) -/

theorem printRequest_ne_refused (o : WireOp) (want : Bool) (s : State) (r : Refusal) :
    printRequest o want s ≠ .refused r := by
  unfold printRequest
  split
  · simp
  · split <;> simp [frameRequest]

/-- A print passes its checks and then finds an index that does not exist: `LEN` exceeds 48 (R78, R35). -/
theorem printRequest_fault {o : WireOp} {want : Bool} {s : State} {f : Fault} :
    printRequest o want s = .fault f ↔
      f = .lineIndexOutOfRange ∧ s.lineValid = true ∧ 48 < s.lineLen.toNat ∧ s.lineComp = want := by
  unfold printRequest
  split
  next k hk =>
    have failed : ¬ (s.lineValid = true ∧ s.lineComp = want) := by simp [← printError_eq_none, hk]
    simp only [reduceCtorEq, false_iff]
    exact fun ⟨_, hv, _, hc⟩ => failed ⟨hv, hc⟩
  next hk =>
    obtain ⟨hv, hc⟩ := printError_eq_none.mp hk
    split
    next p hp =>
      have inRange := (readLineBuf_eq_some.mp hp).1
      simp only [frameRequest, reduceCtorEq, false_iff]
      exact fun ⟨_, _, hlen, _⟩ => hlen.not_ge inRange
    next hp =>
      have overlong := readLineBuf_eq_none.mp hp
      simp [hv, hc, overlong]

/-- Every form but the prints completes from every state. -/
theorem exec_next_of_not_print {i : Instr} (h : ¬ isPrintForm i) (s : State) : ∃ t, exec i s = .next t := by
  cases i with
  | printRaw => exact absurd (.inl rfl) h
  | printRle => exact absurd (.inr rfl) h
  | _ => exact ⟨_, rfl⟩

theorem exec_printRaw (s : State) : exec .printRaw s = printRequest .printUncompressed false s := rfl

theorem exec_printRle (s : State) : exec .printRle s = printRequest .printCompressed true s := rfl

/-! ## The request a step runs (R34, R43) -/

/-- With the samples exhausted, a request that downstream does not hold up goes on. -/
theorem step_exhausted {s : State} {r : Request} (he : s.env = []) (hr : nextRequest s = some r)
    (hd : s.downstreamStuck = false ∨ emitted r s = []) : step s = advance s := by
  simp only [step, he]
  split
  next hstuck => exact stall_silent hr (hd.resolve_left (by simp [hstuck]))
  next => rfl

theorem advance_outstanding {s : State} {r : Request} (h : s.outstanding = some r) :
    advance s = perform r { s with outstanding := none } := by
  simp [advance, complete, h]

theorem nextRequest_presented {s : State} {r : Request} {rest : List HostAction} (ho : s.outstanding = none)
    (hh : s.host = .request r :: rest) : nextRequest s = some r := by
  simp [nextRequest, ho, hh]

theorem advance_presented {s : State} {r : Request} {rest : List HostAction} (ho : s.outstanding = none)
    (hh : s.host = .request r :: rest) : advance s = perform r { s with host := rest } := by
  simp [advance, complete, ho, hh]

/-- An idle block accepts the request presented: REQ and INK are sampled (R137). -/
theorem hold_presented {s : State} {r : Request} {rest : List HostAction} (ho : s.outstanding = none)
    (hh : s.host = .request r :: rest) :
    hold s = { s with outstanding := some r, ink := r.ink, host := rest } := by
  simp [hold, ho, hh]

/-- `go`: the outstanding request completes. -/
theorem step_go_outstanding {s : State} {r : Request} {env : List EnvSample} (ho : s.outstanding = some r)
    (he : s.env = .go :: env) : step s = perform r { s with outstanding := none, env := env } := by
  simp only [step, he]
  exact advance_outstanding (s := { s with env := env }) ho

/-- `wait`: the request presented is accepted and held. -/
theorem step_wait_presented {s : State} {r : Request} {rest : List HostAction} {env : List EnvSample}
    (ho : s.outstanding = none) (hh : s.host = .request r :: rest) (he : s.env = .wait :: env) :
    step s = .next { s with outstanding := some r, ink := r.ink, host := rest, env := env } := by
  simp only [step, he]
  exact congrArg Host.Outcome.next (hold_presented (s := { s with env := env }) ho hh)

theorem decode_of_decodeTableWord {nbits w : Nat} {i : Instr} (h : decodeTableWord nbits w = some i) :
    decode (BitVec.ofNat 32 (w % 2 ^ nbits)) = .ok i := by
  unfold decodeTableWord at h
  split at h
  next j hj => rw [hj, Option.some.inj h]
  next => simp at h

/-! ## The obligations of spec/20_memory.md -/

/-- Settles O49: `LINE.ENC` keeps the canonical form and reset gives the empty one; a step appends the same bytes to `OUT`
and to the record, or is a reset, which empties `OUT` alone. -/
theorem lineBufferStaysCanonical : Obligations.LineBufferStaysCanonical := by
  intro s t hwf hout h
  refine ⟨step_keeps_wf hwf h, ?_⟩
  rcases step_out_sent h with ⟨-, hempty, hsent⟩ | happ
  · exact ⟨hempty ▸ List.nil_suffix, hsent⟩
  · exact ⟨happ.out_suffix hout, happ.sent_prefix⟩

/-- Settles O39: every form but the prints completes, and a print that passes its checks stops exactly when `LEN`
exceeds 48. -/
theorem onlyAnOverlongLineStopsARequest : Obligations.OnlyAnOverlongLineStopsARequest := by
  intro i s
  by_cases hi : isPrintForm i
  · rcases hi with rfl | rfl
    · rw [exec_printRaw]
      exact ⟨printRequest_ne_refused _ _ _, fun f => by simp [printRequest_fault]⟩
    · rw [exec_printRle]
      exact ⟨printRequest_ne_refused _ _ _, fun f => by simp [printRequest_fault]⟩
  · obtain ⟨t, ht⟩ := exec_next_of_not_print hi s
    obtain ⟨hraw, hrle⟩ := not_or.mp hi
    simp [ht, hraw, hrle]

/-- Settles O50: every step that is no reset appends the same bytes to `OUT` and to the record, and a reset recalls
none. -/
theorem outputIsAppendOnly : Obligations.OutputIsAppendOnly := by
  intro s t h
  rcases step_out_sent h with ⟨hrst, -, hsent⟩ | happ
  · exact ⟨hsent, fun hn => absurd hrst hn⟩
  · exact ⟨happ.sent_prefix, fun _ => happ⟩

/-- Settles O40: however the word is presented, the step performs its request, which is `exec` of what it decodes to. -/
theorem stepRunsTheDecodedInstruction : Obligations.StepRunsTheDecodedInstruction := by
  refine ⟨fun s w ink i hd => ?offered, fun s nbits w i hd => ?fetched, fun s r rest i hd ho hh he hdown => ?presented,
    fun s r env i hd ho he => ?held⟩
  case offered => rw [step_offer, perform_ok hd]
  case fetched => rw [State.withFetchWord, step_offer, perform_ok (decode_of_decodeTableWord hd)]
  case presented =>
    rw [step_exhausted he (nextRequest_presented ho hh) hdown, advance_presented ho hh, perform_ok hd]
  case held => rw [step_go_outstanding ho he, perform_ok hd]

/-- Settles O43: the step that waits accepts the request with its row, and the step after it completes the request that was
accepted. -/
theorem acceptedRequestKeepsItsSampledInputs : Obligations.AcceptedRequestKeepsItsSampledInputs := by
  intro s t r rest env ho hh he h
  rw [step_wait_presented ho hh he] at h
  cases h
  exact ⟨rfl, Eq.trans (step_go_outstanding rfl rfl) (by rw [ho])⟩

end Sys2Proof.Machine
end

/-! # Proofs: the encodings (spec/30_encoding.md). The decoder and the table of the 22 forms are one to one, what an
illegal word answers, how a frame is delimited, and what the pseudo-instructions do. -/

section
namespace Sys2Proof.Machine

open Sys2Proof.Claims

/-! ## The checks of a form (R53, R54) -/

/-- A byte operand fills `ARG` exactly when the high byte is 0 (R55). -/
theorem exists_byteArg {arg : BitVec 16} {p : Byte → Prop} :
    (∃ b, arg = byteArg b ∧ p b) ↔ argHigh arg = 0#8 ∧ p (argLow arg) := by
  constructor
  · rintro ⟨b, rfl, hb⟩
    simpa using hb
  · exact fun ⟨hhigh, hp⟩ => ⟨argLow arg, (byteArg_argLow hhigh).symm, hp⟩

theorem requireByte_ok {f : ReqFields} {form : Byte → Instr} {i : Instr} :
    requireByte f form = .ok i ↔ f.sel = false ∧ ∃ b, f.arg = byteArg b ∧ form b = i := by
  simp [requireByte, require_ok, exists_byteArg, and_assoc]

theorem exists_requireByte_ok {f : ReqFields} {form : Byte → Instr} :
    (∃ i, requireByte f form = .ok i) ↔ f.sel = false ∧ argHigh f.arg = 0#8 := by
  simp [requireByte, require_ok]

theorem requireNone_ok {f : ReqFields} {form i : Instr} :
    requireNone f form = .ok i ↔ f.sel = false ∧ f.arg = 0#16 ∧ form = i := by
  simp [requireNone, require_ok, and_assoc]

theorem requireSel_ok {f : ReqFields} {form0 form1 i : Instr} :
    requireSel f form0 form1 = .ok i ↔ f.arg = 0#16 ∧ (if f.sel then form1 else form0) = i := by
  simp [requireSel, require_ok]

/-! ## The decoder, class by class (R54) -/

theorem decodeLine_ok {f : ReqFields} {i : Instr} :
    decodeLine f = .ok i ↔ f.op = 0#8 ∧ f.arg = 0#16 ∧ .lineEnc f.sel = i := by
  simp [decodeLine, require_ok, and_assoc]

theorem decodeCrc_ok {f : ReqFields} {i : Instr} :
    decodeCrc f = .ok i ↔
      f.op = 0#8 ∧
        (f.sel = true ∧ (∃ b, f.arg = byteArg b ∧ .crcUpd b = i) ∨ f.sel = false ∧ f.arg = 0#16 ∧ .crcClr = i) := by
  unfold decodeCrc
  rw [exists_byteArg]
  split_ifs with hop hsel
  · simp [hop, hsel, require_ok]
  · simp [hop, hsel, require_ok]
  · simpa using fun h => absurd h hop

theorem decodeCtrl_ok {f : ReqFields} {i : Instr} :
    decodeCtrl f = .ok i ↔
      f.op = 0x00#8 ∧ f.sel = false ∧ f.arg = 0#16 ∧ .statClr = i ∨
      f.op = 0x01#8 ∧ f.arg = 0#16 ∧ .capSet f.sel = i := by
  unfold decodeCtrl
  split_ifs with hop0 hop1
  · simp [hop0, require_ok, and_assoc]
  · simp [hop1, require_ok]
  · simp [hop0, hop1]

/-- A reserved bit is found before the class is looked at (R115). -/
theorem decodeFields_of_rsvd {f : ReqFields} (h : f.rsvd ≠ 0#5) : decodeFields f = .error .rsvd := by
  simp [decodeFields, h]

/-- The opcode is looked at before the must-be-zero bits of the FRAME class (R115). -/
theorem decodeFields_unassigned {f : ReqFields} (hr : f.rsvd = 0#5) (hk : f.kind = 0b00#2)
    (ho : WireOp.ofByte? f.op = none) : decodeFields f = .error .opcode := by
  simp [decodeFields, hr, hk, ReqKind.ofBits, decodeFrame, ho]

theorem decodeFields_line (sel : Bool) (op : Byte) (arg : BitVec 16) :
    decodeFields ⟨ReqKind.line.bits, sel, 0#5, op, arg⟩ = decodeLine ⟨ReqKind.line.bits, sel, 0#5, op, arg⟩ := rfl

theorem decodeFields_crc (sel : Bool) (op : Byte) (arg : BitVec 16) :
    decodeFields ⟨ReqKind.crc.bits, sel, 0#5, op, arg⟩ = decodeCrc ⟨ReqKind.crc.bits, sel, 0#5, op, arg⟩ := rfl

theorem decodeFields_ctrl (sel : Bool) (op : Byte) (arg : BitVec 16) :
    decodeFields ⟨ReqKind.ctrl.bits, sel, 0#5, op, arg⟩ = decodeCtrl ⟨ReqKind.ctrl.bits, sel, 0#5, op, arg⟩ := rfl

/-- The fields of a word by what the decoder looks at first: a reserved bit, a FRAME word's `OP`, the class. -/
theorem reqFields_cases {P : ReqFields → Prop} (reserved : ∀ f : ReqFields, f.rsvd ≠ 0#5 → P f)
    (unassigned : ∀ f : ReqFields, f.rsvd = 0#5 → f.kind = 0b00#2 → WireOp.ofByte? f.op = none → P f)
    (frame : ∀ o sel arg, P (frameFields o sel arg))
    (line : ∀ sel op arg, P ⟨ReqKind.line.bits, sel, 0#5, op, arg⟩)
    (crc : ∀ sel op arg, P ⟨ReqKind.crc.bits, sel, 0#5, op, arg⟩)
    (ctrl : ∀ sel op arg, P ⟨ReqKind.ctrl.bits, sel, 0#5, op, arg⟩) (f : ReqFields) : P f := by
  obtain ⟨kind, sel, rsvd, op, arg⟩ := f
  obtain ⟨k, rfl⟩ : ∃ k : ReqKind, k.bits = kind := ⟨_, ReqKind.bits_ofBits kind⟩
  by_cases hr : rsvd = 0#5
  · subst hr
    cases k with
    | frame =>
      cases ho : WireOp.ofByte? op with
      | none => exact unassigned _ rfl rfl ho
      | some o => exact WireOp.code_of_ofByte? ho ▸ frame o sel arg
    | line => exact line sel op arg
    | crc => exact crc sel op arg
    | ctrl => exact ctrl sel op arg
  · exact reserved _ hr

/-! ## The decoder is the inverse of the table's columns (R54, R61) -/

/-- An operand byte comes back out of `ARG`; the rest is evaluation. -/
theorem decodeFields_fields (i : Instr) : decodeFields i.fields = .ok i := by
  cases i
  case feedRev | feedFwd | setQuality | deviceId | setSpeed | setDrawMode =>
    exact requireByte_ok.mpr ⟨rfl, _, rfl, rfl⟩
  case crcUpd b => exact (decodeCrc_ok (f := (Instr.crcUpd b).fields)).mpr ⟨rfl, .inl ⟨rfl, b, rfl, rfl⟩⟩
  all_goals rfl

theorem frameFields_of_decodeFrame {o : WireOp} {sel : Bool} {arg : BitVec 16} {i : Instr}
    (h : decodeFrame (frameFields o sel arg) = .ok i) : frameFields o sel arg = i.fields := by
  cases o
  case feedReverse | feedForward | setQuality | deviceId | setSpeed | setDrawingMode =>
    obtain ⟨rfl, b, rfl, rfl⟩ := requireByte_ok.mp h
    rfl
  case magicLattice | flowControl =>
    obtain ⟨rfl, rfl⟩ := requireSel_ok.mp h
    cases sel <;> rfl
  case setEnergy =>
    obtain ⟨hsel, rfl⟩ := require_ok.mp h
    obtain rfl : sel = false := by simpa [frameFields] using hsel
    rfl
  all_goals
    obtain ⟨rfl, rfl, rfl⟩ := requireNone_ok.mp h
    rfl

/-- A word that decodes has no must-be-zero bit set, and the fields its instruction's row gives. -/
theorem fields_of_decodeFields (f : ReqFields) {i : Instr} : decodeFields f = .ok i → f = i.fields := by
  induction f using reqFields_cases with
  | reserved f hr => simp [decodeFields_of_rsvd hr]
  | unassigned f hr hk ho => simp [decodeFields_unassigned hr hk ho]
  | frame o sel arg => exact frameFields_of_decodeFrame
  | line sel op arg =>
    intro h
    obtain ⟨rfl, rfl, rfl⟩ := decodeLine_ok.mp h
    rfl
  | crc sel op arg =>
    intro h
    obtain ⟨rfl, ⟨rfl, b, rfl, rfl⟩ | ⟨rfl, rfl, rfl⟩⟩ := decodeCrc_ok.mp h <;> rfl
  | ctrl sel op arg =>
    intro h
    obtain ⟨rfl, rfl, rfl, rfl⟩ | ⟨rfl, rfl, rfl⟩ := decodeCtrl_ok.mp h <;> rfl

theorem decodeFields_eq_ok {f : ReqFields} {i : Instr} : decodeFields f = .ok i ↔ f = i.fields :=
  ⟨fields_of_decodeFields f, fun h => h ▸ decodeFields_fields i⟩

theorem decode_eq_ok {w : Word} {i : Instr} : decode w = .ok i ↔ fieldsOf w = i.fields := decodeFields_eq_ok

@[simp] theorem fieldsOf_encode (i : Instr) : fieldsOf (encode i) = i.fields := fieldsOf_assemble _

@[simp] theorem decode_encode (i : Instr) : decode (encode i) = .ok i := decode_eq_ok.mpr (fieldsOf_encode i)

theorem encode_of_decode {w : Word} {i : Instr} (h : decode w = .ok i) : encode i = w := by
  rw [encode, ← decode_eq_ok.mp h, assemble_fieldsOf]

/-- Settles O1: the word's fields are the columns of the instruction's row, and the decoder answers the row's
instruction. -/
theorem decodeOfEncodeIsIdentity : Obligations.DecodeOfEncodeIsIdentity := decode_encode

/-- Settles O2: the word is put together from its fields, which are those of the instruction. -/
theorem legalWordIsTheEncodingOfItsInstruction : Obligations.LegalWordIsTheEncodingOfItsInstruction :=
  fun _ _ => encode_of_decode

/-- Settles O7: each word is the encoding of its instruction. -/
theorem writtenOutWordsDecode : Obligations.WrittenOutWordsDecode :=
  ⟨decode_encode (.feedFwd 10#8), decode_encode (.setEnergy 0x1234#16),
    decode_encode .latticeEnd, decode_encode (.lineEnc true), decode_encode (.crcUpd 0x31#8),
    decode_encode (.capSet true)⟩

/-! ## The table as masks and patterns (R61) -/

theorem fieldsOf_and (w m : Word) :
    fieldsOf (w &&& m) =
      { kind := (fieldsOf w).kind &&& (fieldsOf m).kind
        sel := (fieldsOf w).sel && (fieldsOf m).sel
        rsvd := (fieldsOf w).rsvd &&& (fieldsOf m).rsvd
        op := (fieldsOf w).op &&& (fieldsOf m).op
        arg := (fieldsOf w).arg &&& (fieldsOf m).arg } := by
  simp [fieldsOf, BitVec.extractLsb'_and]

/-- "Operand bits are outside the mask", and they are bits of `SEL` and `ARG`: the pattern gives every other field of a
word that selects the row. -/
theorem fieldsOf_pattern_of_selects {p m w : Word} (sel : Bool) (arg : BitVec 16)
    (hm : fieldsOf m = ⟨BitVec.allOnes 2, sel, BitVec.allOnes 5, BitVec.allOnes 8, arg⟩)
    (h : FormRow.selects ⟨p, m⟩ w = true) :
    fieldsOf p = { fieldsOf w with sel := (fieldsOf w).sel && sel, arg := (fieldsOf w).arg &&& arg } := by
  have hw : w &&& m = p := beq_iff_eq.mp h
  rw [← hw, fieldsOf_and, hm]
  simp only [BitVec.and_allOnes]

theorem argHigh_eq_zero_of_and {arg : BitVec 16} (h : arg &&& 0xFF00#16 = 0) : argHigh arg = 0 := by
  calc argHigh arg = argHigh arg &&& argHigh 0xFF00#16 := (BitVec.and_allOnes).symm
    _ = argHigh (arg &&& 0xFF00#16) := (BitVec.extractLsb'_and).symm
    _ = 0 := by rw [h]; decide

/-- A form without an operand: every bit is in the mask. -/
theorem eq_pattern_of_selects {r : FormRow} {w : Word} (hm : r.mask = BitVec.allOnes 32) (h : r.selects w = true) :
    w = r.pattern := by
  rw [← beq_iff_eq.mp h, hm, BitVec.and_allOnes]

/-- A form with a byte operand: `ARG[7:0]` is outside the mask. -/
theorem fieldsOf_of_selects_byte {p w : Word} (harg : (fieldsOf p).arg = 0)
    (h : FormRow.selects ⟨p, 0xFF00FFFF#32⟩ w = true) :
    ∃ b, fieldsOf w = { fieldsOf p with arg := byteArg b } := by
  have hp := fieldsOf_pattern_of_selects true 0xFF00#16 (by decide) h
  rw [hp] at harg ⊢
  exact ⟨argLow (fieldsOf w).arg, by simp [byteArg_argLow (argHigh_eq_zero_of_and harg)]⟩

/-- The form with a 16-bit operand: `ARG` is outside the mask. -/
theorem fieldsOf_of_selects_arg {p w : Word} (h : FormRow.selects ⟨p, 0x0000FFFF#32⟩ w = true) :
    ∃ e, fieldsOf w = { fieldsOf p with arg := e } :=
  ⟨(fieldsOf w).arg, by simp [fieldsOf_pattern_of_selects true 0#16 (by decide) h]⟩

/-- A form whose operand is `SEL`: it is outside the mask. -/
theorem fieldsOf_of_selects_sel {p w : Word} (h : FormRow.selects ⟨p, 0xFFFFFFFB#32⟩ w = true) :
    ∃ c, fieldsOf w = { fieldsOf p with sel := c } := by
  have hp := fieldsOf_pattern_of_selects false (BitVec.allOnes 16) (by decide) h
  rw [BitVec.and_allOnes] at hp
  exact ⟨(fieldsOf w).sel, by rw [hp]⟩

/-- A word that selects a form's row spells an instruction of the form. -/
theorem exists_decode_of_selects {i : Instr} {w : Word} (h : i.row.selects w = true) :
    ∃ j, decode w = .ok j ∧ j.row = i.row := by
  have whole : i.row.mask = BitVec.allOnes 32 → encode i = i.row.pattern → ∃ j, decode w = .ok j ∧ j.row = i.row :=
    fun hm hp => ⟨i, by rw [eq_pattern_of_selects hm h, ← hp, decode_encode], rfl⟩
  have byte : ∀ {r : FormRow} {p : Word} (form : Byte → Instr), (fieldsOf p).arg = 0 →
      (∀ b, { fieldsOf p with arg := byteArg b } = (form b).fields ∧ (form b).row = r) →
      FormRow.selects ⟨p, 0xFF00FFFF#32⟩ w = true → ∃ j, decode w = .ok j ∧ j.row = r := fun form harg hform h =>
    (fieldsOf_of_selects_byte harg h).elim fun b hb => ⟨form b, decode_eq_ok.mpr (hb.trans (hform b).1), (hform b).2⟩
  have sel : ∀ {r : FormRow} {p : Word} (form : Bool → Instr),
      (∀ c, { fieldsOf p with sel := c } = (form c).fields ∧ (form c).row = r) →
      FormRow.selects ⟨p, 0xFFFFFFFB#32⟩ w = true → ∃ j, decode w = .ok j ∧ j.row = r := fun form hform h =>
    (fieldsOf_of_selects_sel h).elim fun c hc => ⟨form c, decode_eq_ok.mpr (hc.trans (hform c).1), (hform c).2⟩
  cases i with
  | feedRev => exact byte .feedRev rfl (fun _ => ⟨rfl, rfl⟩) h
  | feedFwd => exact byte .feedFwd rfl (fun _ => ⟨rfl, rfl⟩) h
  | setQuality => exact byte .setQuality rfl (fun _ => ⟨rfl, rfl⟩) h
  | deviceId => exact byte .deviceId rfl (fun _ => ⟨rfl, rfl⟩) h
  | setSpeed => exact byte .setSpeed rfl (fun _ => ⟨rfl, rfl⟩) h
  | setDrawMode => exact byte .setDrawMode rfl (fun _ => ⟨rfl, rfl⟩) h
  | crcUpd => exact byte .crcUpd rfl (fun _ => ⟨rfl, rfl⟩) h
  | setEnergy =>
    obtain ⟨e, he⟩ := fieldsOf_of_selects_arg h
    exact ⟨.setEnergy e, decode_eq_ok.mpr he, rfl⟩
  | lineEnc => exact sel .lineEnc (fun _ => ⟨rfl, rfl⟩) h
  | capSet => exact sel .capSet (fun _ => ⟨rfl, rfl⟩) h
  | printRaw | getStatus | latticeStart | latticeEnd | getInfo | updateDev | setWifi | flowStart | flowStop | printRle
  | crcClr | statClr => exact whole rfl rfl

theorem selects_encode (i : Instr) : i.row.selects (encode i) = true :=
  match i with
  | .feedRev n => Laws.RowSelection.feedRev n
  | .feedFwd n => Laws.RowSelection.feedFwd n
  | .printRaw => Laws.RowSelection.printRaw
  | .getStatus => Laws.RowSelection.getStatus
  | .setQuality b => Laws.RowSelection.setQuality b
  | .latticeStart => Laws.RowSelection.latticeStart
  | .latticeEnd => Laws.RowSelection.latticeEnd
  | .getInfo => Laws.RowSelection.getInfo
  | .updateDev => Laws.RowSelection.updateDev
  | .setWifi => Laws.RowSelection.setWifi
  | .flowStart => Laws.RowSelection.flowStart
  | .flowStop => Laws.RowSelection.flowStop
  | .setEnergy e => Laws.RowSelection.setEnergy e
  | .deviceId b => Laws.RowSelection.deviceId b
  | .setSpeed b => Laws.RowSelection.setSpeed b
  | .setDrawMode b => Laws.RowSelection.setDrawMode b
  | .printRle => Laws.RowSelection.printRle
  | .lineEnc c => Laws.RowSelection.lineEnc c
  | .crcClr => Laws.RowSelection.crcClr
  | .crcUpd b => Laws.RowSelection.crcUpd b
  | .statClr => Laws.RowSelection.statClr
  | .capSet c => Laws.RowSelection.capSet c

theorem row_mem_requestTable (i : Instr) : i.row ∈ requestTable := by
  cases i <;> simp [requestTable, formRepresentatives, Instr.row]

theorem exists_decode_of_mem_table {r : FormRow} {w : Word} (hr : r ∈ requestTable) (h : r.selects w = true) :
    ∃ i, decode w = .ok i ∧ i.row = r := by
  obtain ⟨i, -, rfl⟩ := List.mem_map.mp hr
  exact exists_decode_of_selects h

/-- No two rows match one word: the word decodes to one instruction, and that has one row. -/
theorem row_eq_of_selects {r q : FormRow} {w : Word} (hr : r ∈ requestTable) (hq : q ∈ requestTable)
    (hrw : r.selects w = true) (hqw : q.selects w = true) : r = q := by
  obtain ⟨i, hi, rfl⟩ := exists_decode_of_mem_table hr hrw
  obtain ⟨j, hj, rfl⟩ := exists_decode_of_mem_table hq hqw
  rw [Except.ok.inj (hi.symm.trans hj)]

theorem decode_eq_ok_iff_selects {w : Word} {i : Instr} :
    decode w = .ok i ↔ i.row.selects w = true ∧ fieldsOf w = i.fields :=
  ⟨fun h => ⟨encode_of_decode h ▸ selects_encode i, decode_eq_ok.mp h⟩, fun ⟨_, hf⟩ => decode_eq_ok.mpr hf⟩

/-- A word matches no row exactly when decoding answers an error (R62). -/
theorem selects_none_iff_error {w : Word} :
    (∀ r ∈ requestTable, r.selects w = false) ↔ ∃ k, decode w = .error k := by
  cases hd : decode w with
  | ok i =>
    have hrow := (decode_eq_ok_iff_selects.mp hd).1
    simpa using ⟨i.row, row_mem_requestTable i, hrow⟩
  | error k =>
    simp only [Except.error.injEq, exists_eq', iff_true]
    intro r hr
    by_contra hsel
    obtain ⟨i, hi, -⟩ := exists_decode_of_mem_table hr (Bool.not_eq_false _ ▸ hsel)
    simp [hd] at hi

/-- Settles O3: the decoder answers the instruction of the one row a word selects, and every selected row spells one. -/
theorem requestFormsFollowTheTable : Obligations.RequestFormsFollowTheTable :=
  ⟨rfl, fun i => ⟨row_mem_requestTable i, fieldsOf_encode i⟩, fun _ _ => decode_eq_ok_iff_selects,
    fun _ _ _ => row_eq_of_selects, fun _ => selects_none_iff_error⟩

/-! ## Well-formed fields (R53) -/

@[simp] theorem isKind_bits (k k' : ReqKind) (sel : Bool) (rsvd : BitVec 5) (op : Byte) (arg : BitVec 16) :
    ReqFields.isKind k' ⟨k.bits, sel, rsvd, op, arg⟩ = decide (k = k') := by
  cases k <;> cases k' <;> rfl

theorem code_inj {o o' : WireOp} : o.code = o'.code ↔ o = o' :=
  ⟨fun h => by simpa using congrArg WireOp.ofByte? h, congrArg WireOp.code⟩

@[simp] theorem isFrame_frameFields (o o' : WireOp) (sel : Bool) (arg : BitVec 16) :
    (frameFields o sel arg).isFrame o' = decide (o = o') := by
  simp [ReqFields.isFrame, frameFields, beq_eq_decide, code_inj]

theorem isFrame_bits_of_ne {k : ReqKind} (h : k ≠ .frame) (o : WireOp) (sel : Bool) (rsvd : BitVec 5) (op : Byte)
    (arg : BitVec 16) : ReqFields.isFrame o ⟨k.bits, sel, rsvd, op, arg⟩ = false := by
  simp [ReqFields.isFrame, h]

theorem wellFormed_iff {f : ReqFields} :
    f.wellFormed = true ↔ f.rsvd = 0#5 ∧ f.opOk = true ∧ (f.selMeans = true ∨ f.sel = false) ∧
      (f.isFrame .setEnergy = true ∨ f.hasByteOperand = true ∧ argHigh f.arg = 0#8 ∨ f.arg = 0#16) := by
  simp [ReqFields.wellFormed, ReqFields.rsvdOk, ReqFields.selOk, ReqFields.argOk, argHigh, and_assoc, or_assoc]

theorem wellFormed_line {sel : Bool} {op : Byte} {arg : BitVec 16} :
    ReqFields.wellFormed ⟨ReqKind.line.bits, sel, 0#5, op, arg⟩ = true ↔ op = 0#8 ∧ arg = 0#16 := by
  simp [wellFormed_iff, ReqFields.opOk, ReqFields.selMeans, ReqFields.hasByteOperand, isFrame_bits_of_ne]

theorem wellFormed_crc {sel : Bool} {op : Byte} {arg : BitVec 16} :
    ReqFields.wellFormed ⟨ReqKind.crc.bits, sel, 0#5, op, arg⟩ = true ↔
      op = 0#8 ∧ (sel = true ∧ argHigh arg = 0#8 ∨ arg = 0#16) := by
  simp [wellFormed_iff, ReqFields.opOk, ReqFields.selMeans, ReqFields.hasByteOperand, isFrame_bits_of_ne]

theorem wellFormed_ctrl {sel : Bool} {op : Byte} {arg : BitVec 16} :
    ReqFields.wellFormed ⟨ReqKind.ctrl.bits, sel, 0#5, op, arg⟩ = true ↔
      (op = 0x00#8 ∨ op = 0x01#8) ∧ (op = 0x01#8 ∨ sel = false) ∧ arg = 0#16 := by
  simp [wellFormed_iff, ReqFields.opOk, ReqFields.selMeans, ReqFields.hasByteOperand, isFrame_bits_of_ne]

theorem argHigh_eq_zero {arg : BitVec 16} (h : arg = 0#16) : argHigh arg = 0#8 := by
  rw [h]
  decide

theorem opOk_frameFields (o : WireOp) (sel : Bool) (arg : BitVec 16) : (frameFields o sel arg).opOk = true := by
  cases o <;> rfl

theorem not_opOk_of_unassigned {f : ReqFields} (hk : f.kind = 0b00#2) (ho : WireOp.ofByte? f.op = none) :
    f.opOk = false := by
  have unassigned : ∀ o ∈ WireOp.all, f.op ≠ o.code := fun o _ hop => by simp [hop] at ho
  simpa [ReqFields.opOk, ReqFields.isKind, hk, ReqKind.bits] using unassigned

/-- The must-be-zero bits of a FRAME form (R51, R55). -/
theorem wellFormed_frame {o : WireOp} {sel : Bool} {arg : BitVec 16} :
    (frameFields o sel arg).wellFormed = true ↔
      (o ∈ [.magicLattice, .flowControl] ∨ sel = false) ∧
      (o = .setEnergy ∨
        o ∈ [.feedReverse, .feedForward, .setQuality, .deviceId, .setSpeed, .setDrawingMode] ∧ argHigh arg = 0#8 ∨
        arg = 0#16) := by
  rw [wellFormed_iff]
  simp only [opOk_frameFields, ReqFields.selMeans, ReqFields.hasByteOperand, isFrame_frameFields]
  simp [frameFields, or_assoc]

/-- The must-be-zero bits of a FRAME form are what its check demands. -/
theorem exists_decodeFrame_iff_wellFormed (o : WireOp) (sel : Bool) (arg : BitVec 16) :
    (∃ i, decodeFrame (frameFields o sel arg) = .ok i) ↔ (frameFields o sel arg).wellFormed = true := by
  rw [wellFormed_frame]
  cases o
  case feedReverse | feedForward | setQuality | deviceId | setSpeed | setDrawingMode =>
    refine exists_requireByte_ok.trans ?_
    simpa [frameFields] using fun _ => argHigh_eq_zero
  case magicLattice | flowControl => simp [decodeFrame, frameFields, requireSel_ok]
  case setEnergy => simp [decodeFrame, frameFields, require_ok]
  all_goals simp [decodeFrame, frameFields, requireNone_ok]

theorem exists_decodeFields_iff_wellFormed (f : ReqFields) :
    (∃ i, decodeFields f = .ok i) ↔ f.wellFormed = true := by
  induction f using reqFields_cases with
  | reserved f hr => simp [decodeFields_of_rsvd hr, wellFormed_iff, hr]
  | unassigned f hr hk ho => simp [decodeFields_unassigned hr hk ho, wellFormed_iff, not_opOk_of_unassigned hk ho]
  | frame o sel arg => exact exists_decodeFrame_iff_wellFormed o sel arg
  | line sel op arg => simp [decodeFields_line, decodeLine_ok, wellFormed_line]
  | crc sel op arg =>
    cases sel
    · simp [decodeFields_crc, decodeCrc_ok, wellFormed_crc]
    · simpa [decodeFields_crc, decodeCrc_ok, wellFormed_crc, exists_byteArg] using fun _ => argHigh_eq_zero
  | ctrl sel op arg =>
    simp only [decodeFields_ctrl, decodeCtrl_ok, wellFormed_ctrl, exists_or, exists_and_left, exists_eq', and_true]
    constructor
    · rintro (⟨hop, hsel, harg⟩ | ⟨hop, harg⟩)
      · exact ⟨.inl hop, .inr hsel, harg⟩
      · exact ⟨.inr hop, .inl hop, harg⟩
    · rintro ⟨hop0 | hop1, hsel, harg⟩
      · exact .inl ⟨hop0, hsel.resolve_left (by simp [hop0]), harg⟩
      · exact .inr ⟨hop1, harg⟩

theorem exists_decode_iff_wellFormed {w : Word} : (∃ i, decode w = .ok i) ↔ (fieldsOf w).wellFormed = true :=
  exists_decodeFields_iff_wellFormed _

/-- Settles O4: reserved bits, `OP`, `SEL` and `ARG` are checked class by class, and for a FRAME word form by
form, as R53 lists them. -/
theorem decodeSucceedsExactlyOnWellFormedFields : Obligations.DecodeSucceedsExactlyOnWellFormedFields :=
  fun _ => exists_decode_iff_wellFormed

/-! ## The code of an illegal word (R54, R62) -/

theorem decodeFrame_error {o : WireOp} {sel : Bool} {arg : BitVec 16} {k : ErrCode}
    (h : decodeFrame (frameFields o sel arg) = .error k) : k = .rsvd := by
  cases o <;> exact (require_error.mp h).2

theorem decodeCrc_error {f : ReqFields} {k : ErrCode} (h : decodeCrc f = .error k) : k = .rsvd := by
  unfold decodeCrc at h
  split_ifs at h
  · exact (require_error.mp h).2
  · exact (require_error.mp h).2
  · exact (Except.error.inj h).symm

theorem decodeCtrl_error {f : ReqFields} {k : ErrCode} (h : decodeCtrl f = .error k) : k = .rsvd := by
  unfold decodeCtrl at h
  split_ifs at h
  · exact (require_error.mp h).2
  · exact (require_error.mp h).2
  · exact (Except.error.inj h).symm

/-- Every decoding error is `ERR_RSVD`, but for an unassigned `OP` beside a clear `RSVD`. -/
theorem decodeFields_error {f : ReqFields} {k : ErrCode} (h : decodeFields f = .error k) :
    k = if f.rsvd = 0#5 ∧ f.kind = 0b00#2 ∧ WireOp.ofByte? f.op = none then .opcode else .rsvd := by
  induction f using reqFields_cases with
  | reserved f hr =>
    rw [decodeFields_of_rsvd hr] at h
    simpa [hr] using (Except.error.inj h).symm
  | unassigned f hr hk ho =>
    rw [decodeFields_unassigned hr hk ho] at h
    simpa [hr, hk, ho] using (Except.error.inj h).symm
  | frame o sel arg => simpa [frameFields] using decodeFrame_error h
  | line sel op arg => simpa [ReqKind.bits] using (require_error.mp h).2
  | crc sel op arg => simpa [ReqKind.bits] using decodeCrc_error h
  | ctrl sel op arg => simpa [ReqKind.bits] using decodeCtrl_error h

/-- An illegal word is run by the error entry, which is what R116 says (R62). -/
theorem rejects_of_decode_error {w : Word} {k : ErrCode} (h : decode w = .error k) : Rejects w k.code := by
  intro s ink
  exact (step_offer s w ink).trans (perform_error (r := ⟨w, ink⟩) h)

/-- An unassigned `OP` beside a clear `RSVD`: `ERR_OPCODE`. -/
theorem rejects_of_unassigned {w : Word} (hr : (fieldsOf w).rsvd = 0) (hk : (fieldsOf w).kind = 0b00#2)
    (ho : WireOp.ofByte? (fieldsOf w).op = none) : Rejects w 2#3 :=
  rejects_of_decode_error (decodeFields_unassigned hr hk ho)

/-- Any other word that is no form: `ERR_RSVD`. -/
theorem rejects_of_not_wellFormed {w : Word} (h : (fieldsOf w).wellFormed = false)
    (hn : ¬ ((fieldsOf w).rsvd = 0 ∧ (fieldsOf w).kind = 0b00#2 ∧ WireOp.ofByte? (fieldsOf w).op = none)) :
    Rejects w 1#3 := by
  cases hd : decode w with
  | ok i => simp [exists_decode_iff_wellFormed.mp ⟨i, hd⟩] at h
  | error k =>
    have hk : k = .rsvd := (decodeFields_error hd).trans (if_neg hn)
    exact rejects_of_decode_error (hk ▸ hd)

theorem not_wellFormed_of_selects_none {w : Word} (h : ∀ r ∈ requestTable, r.selects w = false) :
    (fieldsOf w).wellFormed = false := by
  obtain ⟨k, hk⟩ := selects_none_iff_error.mp h
  by_contra hwf
  obtain ⟨i, hi⟩ := exists_decode_iff_wellFormed.mpr (Bool.not_eq_false _ ▸ hwf)
  simp [hk] at hi

theorem not_wellFormed_of_rsvd {f : ReqFields} (h : f.rsvd ≠ 0) : f.wellFormed = false := by
  by_contra hwf
  exact h (wellFormed_iff.mp (Bool.not_eq_false _ ▸ hwf)).1

/-- `OP` at 2 or more in the CTRL class is reserved (R52). -/
theorem not_wellFormed_of_control_op {f : ReqFields} (hk : f.kind = 0b11#2) (hop : 2 ≤ f.op.toNat) :
    f.wellFormed = false := by
  by_contra hwf
  have opOk := (wellFormed_iff.mp (Bool.not_eq_false _ ▸ hwf)).2.1
  obtain hop0 | hop1 : f.op = 0x00#8 ∨ f.op = 0x01#8 := by
    simpa [ReqFields.opOk, ReqFields.isKind, hk, ReqKind.bits] using opOk
  · simp [hop0] at hop
  · simp [hop1] at hop

/-- Settles O5: a word of no row is not well-formed, so the step that runs it is the error entry; its code is the
decoder's, `ERR_OPCODE` for an unassigned `OP` alone. -/
theorem illegalWordsAnswerTheCodeOfTheirClass : Obligations.IllegalWordsAnswerTheCodeOfTheirClass := by
  refine ⟨fun w h => ?none, fun w hr => ?reserved, fun w hr hk ho => rejects_of_unassigned hr hk ho,
    fun w hk hop => ?control, fun w hop h => ?assigned, ?values, rfl⟩
  case none =>
    have hwf := not_wellFormed_of_selects_none h
    split_ifs with hr ho
    · exact rejects_of_not_wellFormed hwf fun hn => hr hn.1
    · exact rejects_of_unassigned (not_not.mp hr) ho.1 ho.2
    · exact rejects_of_not_wellFormed hwf fun hn => ho hn.2
  case reserved => exact rejects_of_not_wellFormed (not_wellFormed_of_rsvd hr) fun hn => hr hn.1
  case control =>
    exact rejects_of_not_wellFormed (not_wellFormed_of_control_op hk hop) fun hn => by simp [hk] at hn
  case assigned =>
    exact rejects_of_not_wellFormed h fun ⟨_, hk, ho⟩ => by simp [not_opOk_of_unassigned hk ho] at hop
  case values => decide +kernel

/-! ## Frames (R57) -/

theorem frameRequest_eq (o : WireOp) (p : List Byte) (s : State) :
    frameRequest o p s = .next (afterEmit (frameBytes o.code p) s) := rfl

@[simp] theorem length_frameBytes (op : Byte) (p : List Byte) : (frameBytes op p).length = 8 + p.length := by
  simp only [frameBytes, List.length_append, List.length_cons, List.length_nil]
  omega

theorem toNat_ofNat_length {p : List Byte} (h : p.length ≤ 48) : (BitVec.ofNat 8 p.length).toNat = p.length := by
  rw [BitVec.toNat_ofNat]
  omega

/-- The reader takes `byte[4] + 8` bytes, which is the frame (R57). -/
theorem splitFrame_frameBytes_append (op : Byte) (p rest : List Byte) (h : p.length ≤ 48) :
    splitFrame (frameBytes op p ++ rest) = some (frameBytes op p, rest) := by
  have lengthByte : (frameBytes op p ++ rest)[4]? = some (BitVec.ofNat 8 p.length) := by simp [frameBytes]
  have len : (BitVec.ofNat 8 p.length).toNat + 8 = (frameBytes op p).length := by
    rw [toNat_ofNat_length h, length_frameBytes, Nat.add_comm]
  simp only [splitFrame, lengthByte, len]
  simp

/-- A row of one value is one run (R100). -/
theorem runs_replicate (v : Bool) (n : Nat) : runs (List.replicate (n + 1) v) = [(v, n + 1)] := by
  induction n with
  | zero => rfl
  | succ n ih => rw [List.replicate_succ, runs, ih]; simp

theorem inkRow_allOnes : inkRow (BitVec.allOnes 384) = List.replicate 384 true := by
  rw [inkRow, List.map_congr_left (g := fun _ => true) fun x hx => ?_, List.map_const', List.length_range]
  rw [inkBit, BitVec.getLsbD_allOnes, decide_eq_true (List.mem_range.mp hx)]

/-- Settles O19: the bytes before the payload are fixed but for the opcode and the length, two follow it, and the reader
takes `byte[4] + 8`. -/
theorem framesAreDelimitedByTheirLengthByte : Obligations.FramesAreDelimitedByTheirLengthByte := by
  refine ⟨fun op p rest h => ?_, ⟨energyPayload 0xFFFF#16, frameRequest_eq .setEnergy _, by decide⟩, ?_⟩
  · have last : (frameBytes op p)[7 + p.length]? = some 0xFF#8 := by
      rw [show 7 + p.length = p.length + 7 from Nat.add_comm _ _]
      simp [frameBytes]
    exact ⟨rfl, rfl, rfl, toNat_ofNat_length h, rfl, last, length_frameBytes op p,
      splitFrame_frameBytes_append op p rest h⟩
  · rw [rle, inkRow_allOnes, rleBits, runs_replicate]
    decide

/-! ## The pseudo-instructions (R67) -/

theorem readPort_lineInfo (s : State) : readPort 0x02#8 s = lineInfoByte s := rfl

/-- Bit 1 of `LINE_INFO` is `COMP` (R22). -/
theorem lineInfoByte_comp (s : State) : (lineInfoByte s).getLsbD 1 = s.lineComp := by
  unfold lineInfoByte
  cases s.lineComp <;> cases s.lineValid <;> decide

/-- `PRINT` picks the form that agrees with `COMP`. -/
theorem printForm_readPort (s : State) :
    printForm (readPort 0x02#8 s) = if s.lineComp then .printRle else .printRaw := by
  rw [readPort_lineInfo, printForm, lineInfoByte_comp]

/-- A line of R30 fits the buffer. -/
theorem lineLen_le_of_lineOk {s : State} (h : LineOk s) : s.lineLen.toNat ≤ 48 := by
  rcases h with ⟨-, -, hl, -⟩ | ⟨-, -, hl, -⟩ | ⟨-, -, -, hl, -⟩
  · simp [hl]
  · simp [hl]
  · exact hl

/-- A print that passes its checks, of a line that fits the buffer, emits the line's frame (R78). -/
theorem printRequest_of_agrees {o : WireOp} {want : Bool} {s : State} (hv : s.lineValid = true)
    (hc : s.lineComp = want) (hl : s.lineLen.toNat ≤ 48) :
    printRequest o want s = .next (afterEmit (frameBytes o.code (linePrefix s)) s) := by
  have payload : linePayload s = some (linePrefix s) := readLineBuf_eq_some.mpr ⟨hl, rfl⟩
  simp only [printRequest, printError_eq_none.mpr ⟨hv, hc⟩, payload, frameRequest_eq]

/-- Settles O34: the form picked agrees with `COMP`, and a line of R30 fits the buffer. -/
theorem printPseudoPicksTheLegalForm : Obligations.PrintPseudoPicksTheLegalForm := by
  intro s hline hv
  have hl := lineLen_le_of_lineOk hline
  rw [printForm_readPort]
  cases hc : s.lineComp with
  | true => exact printRequest_of_agrees hv hc hl
  | false => exact printRequest_of_agrees hv hc hl

/-- Only a frame form would emit a byte (R38). -/
theorem emitted_of_not_frameForm {r : Request} {i : Instr} (hd : decode r.word = .ok i) (hi : ¬ IsFrameForm i)
    (s : State) : emitted r s = [] := by
  unfold emitted
  split
  next t ht =>
    rw [perform_ok hd] at ht
    simp [(exec_out ht).resolve_right hi]
  next => rfl
  next => rfl

/-- With the samples exhausted, the request of an instruction that is no frame form completes in one step, whether or not
downstream is stuck. -/
theorem step_present {i : Instr} {rest : List HostAction} {s : State} (hi : ¬ IsFrameForm i)
    (ho : s.outstanding = none) (he : s.env = []) (hh : s.host = present i :: rest) :
    step s = exec i { s with host := rest, ink := 0 } := by
  have hd : decode (Request.mk (encode i) 0).word = .ok i := decode_encode i
  have quiet := emitted_of_not_frameForm hd hi s
  calc step s = advance s := step_exhausted he (nextRequest_presented ho hh) (.inr quiet)
    _ = perform ⟨encode i, 0⟩ { s with host := rest } := advance_presented ho hh
    _ = exec i { s with host := rest, ink := 0 } := perform_ok hd

theorem step_present_crcClr {rest : List HostAction} {s : State} (ho : s.outstanding = none) (he : s.env = [])
    (hh : s.host = present .crcClr :: rest) :
    step s = .next { s with crc := Config.crcInit, ink := 0, host := rest, rsp := s.rsp ++ [0#3] } :=
  step_present (by unfold IsFrameForm; decide) ho he hh

theorem step_present_crcUpd {b : Byte} {rest : List HostAction} {s : State} (ho : s.outstanding = none)
    (he : s.env = []) (hh : s.host = present (.crcUpd b) :: rest) :
    step s = .next { s with crc := crc8Step s.crc b, ink := 0, host := rest, rsp := s.rsp ++ [0#3] } :=
  step_present (i := .crcUpd b) (by simp [IsFrameForm, Instr.fields, ReqKind.bits]) ho he hh

theorem runFor_succ {n : Nat} {s t : State} (h : step s = .next t) : runFor (n + 1) s = runFor n t := by
  simp [runFor, h]

/-- Requests `CRC.UPD` in a row fold their bytes into `CRC` (R73). -/
theorem runFor_crcUpd (bytes : List Byte) (rest : List HostAction) : ∀ s : State, s.outstanding = none → s.env = [] →
    s.ink = 0 → s.host = (bytes.map fun b => present (.crcUpd b)) ++ rest →
    runFor bytes.length s =
      .next { s with crc := bytes.foldl crc8Step s.crc, host := rest,
                     rsp := s.rsp ++ List.replicate bytes.length 0#3 } := by
  induction bytes with
  | nil =>
    intro s _ _ _ hh
    simp only [List.map_nil, List.nil_append] at hh
    simp [runFor, ← hh]
  | cons b bytes ih =>
    intro s ho he hi hh
    rw [List.length_cons, runFor_succ (step_present_crcUpd ho he hh)]
    refine Eq.trans (ih _ ho he rfl rfl) ?_
    simp [← hi, List.replicate_succ]

/-- Settles O35: `CRC.CLR` starts at the initial value, and each `CRC.UPD` takes one step more of the checksum's fold. -/
theorem crcBufLeavesTheChecksumOfItsBytes : Obligations.CrcBufLeavesTheChecksumOfItsBytes := by
  intro bytes info rest s ho he hh
  rw [runFor_succ (step_present_crcClr ho he hh)]
  refine Eq.trans (runFor_crcUpd bytes rest _ ho he rfl rfl) ?_
  simp [crc8, List.replicate_succ]

end Sys2Proof.Machine
end

/-! # Proofs: the checksum unit (spec/40_checksum.md). The laws of the checksum function, what `CRC.CLR` and
`CRC.UPD` do, and that a frame's checksum and the register `CRC` have nothing to do with each other. -/

section
namespace Sys2Proof.Machine

open Sys2Proof.Claims

/-! ## The laws of the checksum function (R71) -/

/-- The step's linearity carried along two sequences of equal length (R71 (e)). -/
theorem foldl_crc8Step_zipWith_xor : ∀ {p q : List Byte} (a b : Byte), p.length = q.length →
    (List.zipWith (· ^^^ ·) p q).foldl crc8Step (a ^^^ b) = p.foldl crc8Step a ^^^ q.foldl crc8Step b
  | [], [], _, _, _ => rfl
  | x :: p, y :: q, a, b, h => by
    rw [List.zipWith_cons_cons, List.foldl_cons, crc8Step_xor]
    exact foldl_crc8Step_zipWith_xor _ _ (Nat.succ.inj h)

theorem crc8_zeros (n : Nat) : crc8 (List.replicate n 0x00#8) = 0x00#8 := by
  induction n with
  | zero => rfl
  | succ n ih => rw [List.replicate_succ', crc8_append, ih, List.foldl_cons, crc8Step_zero_zero, List.foldl_nil]

/-- One shift takes a nonzero byte to a nonzero byte: the polynomial's constant term comes in where bit 7 goes out. -/
theorem crcShift_eq_zero {c : Byte} : crcShift c = 0x00#8 ↔ c = 0x00#8 := by
  revert c
  decide

theorem foldl_crcShift_eq_zero (l : List Nat) (c : Byte) :
    l.foldl (fun c _ => crcShift c) c = 0x00#8 ↔ c = 0x00#8 := by
  induction l generalizing c with
  | nil => rfl
  | cons _ l ih => rw [List.foldl_cons, ih, crcShift_eq_zero]

theorem crc8Step_zero_eq_zero {b : Byte} : crc8Step 0x00#8 b = 0x00#8 ↔ b = 0x00#8 := by
  rw [crc8Step, foldl_crcShift_eq_zero, BitVec.zero_xor]

/-! ### Division by the polynomial (R71 (d)) -/

/-- `timesPolynomial` with the first n bits of the factor alone. -/
def timesPolynomialUpTo (n : Nat) (q : Byte) : BitVec 16 :=
  (List.range n).foldl (fun acc j => if q.getLsbD j then acc ^^^ (0x107#16 <<< j) else acc) 0#16

theorem timesPolynomial_eq_upTo (q : Byte) : timesPolynomial q = timesPolynomialUpTo 8 q := rfl

theorem timesPolynomialUpTo_succ (n : Nat) (q : Byte) :
    timesPolynomialUpTo (n + 1) q =
      if q.getLsbD n then timesPolynomialUpTo n q ^^^ (0x107#16 <<< n) else timesPolynomialUpTo n q := by
  rw [timesPolynomialUpTo, List.range_succ, List.foldl_append]
  rfl

/-- Shifting a bit into the factor multiplies the product by x and adds the polynomial for the bit. -/
theorem timesPolynomialUpTo_shiftConcat {n : Nat} (hn : n < 8) (q : Byte) (bit : Bool) :
    timesPolynomialUpTo (n + 1) (q.shiftConcat bit) =
      timesPolynomialUpTo n q <<< 1 ^^^ if bit then 0x107#16 else 0#16 := by
  induction n with
  | zero => cases bit <;> simp [timesPolynomialUpTo]
  | succ n ih =>
    have next : (q.shiftConcat bit).getLsbD (n + 1) = q.getLsbD n := by
      simpa [hn] using BitVec.getLsbD_shiftConcat q bit (n + 1)
    rw [timesPolynomialUpTo_succ, next, ih (by omega), timesPolynomialUpTo_succ n]
    split
    · rw [BitVec.shiftLeft_xor_distrib, BitVec.shiftLeft_add]
      ac_rfl
    · rfl

/-- One shift is one step of long division: the bit that falls out is the quotient's next bit. -/
theorem crcShift_division (c : Byte) :
    c.setWidth 16 <<< 1 = (if c.getLsbD 7 then 0x107#16 else 0#16) ^^^ (crcShift c).setWidth 16 := by
  revert c
  decide

/-- n shifts of a byte leave the remainder of b · x^n. -/
theorem exists_quotient_of_shifts (b : Byte) : ∀ n ≤ 8, ∃ q : Byte,
    b.setWidth 16 <<< n =
      timesPolynomialUpTo n q ^^^ ((List.range n).foldl (fun c _ => crcShift c) b).setWidth 16 := by
  intro n
  induction n with
  | zero => exact fun _ => ⟨0#8, by simp [timesPolynomialUpTo]⟩
  | succ n ih =>
    intro hn
    obtain ⟨q, hq⟩ := ih (by omega)
    rw [List.range_succ, List.foldl_append]
    generalize (List.range n).foldl (fun c _ => crcShift c) b = c at hq ⊢
    refine ⟨q.shiftConcat (c.getLsbD 7), ?_⟩
    calc b.setWidth 16 <<< (n + 1)
        = timesPolynomialUpTo n q <<< 1 ^^^ c.setWidth 16 <<< 1 := by
          rw [BitVec.shiftLeft_add, hq, BitVec.shiftLeft_xor_distrib]
      _ = timesPolynomialUpTo (n + 1) (q.shiftConcat (c.getLsbD 7)) ^^^ (crcShift c).setWidth 16 := by
          rw [crcShift_division, timesPolynomialUpTo_shiftConcat hn, BitVec.xor_assoc]

/-- Settles O24: `CRC`'s shift divides by the polynomial one bit at a time and is linear, and both carry over to the
step's eight shifts and to the fold over a sequence. -/
theorem checksumLaws : Obligations.ChecksumLaws := by
  refine ⟨rfl, fun p b => crc8_append p [b], crc8_zeros, fun b => ?_, fun _ => crc8Step_zero_eq_zero,
    fun p q h => foldl_crc8Step_zipWith_xor 0x00#8 0x00#8 h, ?_⟩
  · simp only [timesPolynomial_eq_upTo, crc8Step, BitVec.zero_xor]
    exact exists_quotient_of_shifts b 8 le_rfl
  · exact ⟨rfl, rfl, rfl, rfl, rfl, rfl⟩

/-! ## The requests of the checksum unit (R72, R73) -/

theorem spells_of_encode {w : Word} {i : Instr} (h : encode i = w) : Spells w i := ⟨h, h ▸ decode_encode i⟩

/-- A word outside the FRAME class whose fields are no form's (R62). -/
theorem rejects_of_fields_ne {w : Word} (hk : (fieldsOf w).kind ≠ 0b00#2) (h : ∀ i : Instr, fieldsOf w ≠ i.fields) :
    Rejects w 1#3 := by
  have illegal : (fieldsOf w).wellFormed = false := by
    by_contra hwf
    obtain ⟨i, hi⟩ := exists_decode_iff_wellFormed.mpr (Bool.not_eq_false _ ▸ hwf)
    exact h i (decode_eq_ok.mp hi)
  exact rejects_of_not_wellFormed illegal fun ⟨_, hframe, _⟩ => hk hframe

/-- An illegal word of the CRC class: its fields are those of neither form (R54). -/
theorem rejects_of_not_crcForm {w : Word} (hk : (fieldsOf w).kind = 0b10#2) (hclr : fieldsOf w ≠ Instr.crcClr.fields)
    (hupd : ∀ b, fieldsOf w ≠ (Instr.crcUpd b).fields) : Rejects w 1#3 := by
  refine rejects_of_fields_ne (by simp [hk]) fun i hi => ?_
  cases i with
  | crcClr => exact hclr hi
  | crcUpd b => exact hupd b hi
  | _ => simp [hi, Instr.fields, frameFields, ReqKind.bits] at hk

/-- `W[31:24]` is the high operand byte (R49). -/
theorem argHigh_fieldsOf (w : Word) : argHigh (fieldsOf w).arg = w.extractLsb' 24 8 := by
  refine BitVec.eq_of_getLsbD_eq fun i hi => ?_
  simp [argHigh, fieldsOf, hi, show 8 + i < 16 by omega, show 16 + (8 + i) = 24 + i by omega]

theorem encode_crcUpd (b : Byte) : encode (.crcUpd b) = b.setWidth 32 <<< 16 ||| 0x00000006#32 := by
  have operand : (byteArg b).setWidth 32 = b.setWidth 32 := by simp [byteArg]
  have others : (0#8).setWidth 32 <<< 8 ||| (0#5).setWidth 32 <<< 3 ||| (BitVec.ofBool true).setWidth 32 <<< 2 |||
    ReqKind.crc.bits.setWidth 32 = 0x00000006#32 := by decide
  simp only [encode, assemble, Instr.fields, operand, ← others, BitVec.or_assoc]
  rfl

theorem execAll_cons {i : Instr} {s t : State} (h : exec i s = .next t) (is : List Instr) :
    execAll (i :: is) s = execAll is t := by
  simp [execAll, h]

/-- `CRC.UPD` in a row fold their bytes into `CRC` (R73). -/
theorem execAll_crcUpd (p : List Byte) (s : State) : execAll (p.map .crcUpd) s =
    .next { s with crc := p.foldl crc8Step s.crc, rsp := s.rsp ++ List.replicate p.length 0#3 } := by
  induction p generalizing s with
  | nil => simp [execAll]
  | cons b p ih =>
    rw [List.map_cons, execAll_cons rfl, ih]
    simp [rspOk, List.replicate_succ]

/-- Settles O22: an illegal word with `SEL` = 0 has a field that `CRC.CLR`'s one word has not, and `CRC.UPD` has
`SEL` = 1. -/
theorem crcClrClearsTheAccumulator : Obligations.CrcClrClearsTheAccumulator := by
  refine ⟨spells_of_encode (by decide), fun s => rfl, fun w hk hsel hne => rejects_of_not_crcForm hk ?_ fun b h => ?_⟩
  · intro h
    simp [h, Instr.fields] at hne
  · simp [h, Instr.fields] at hsel

/-- Settles O23: an illegal word with `SEL` = 1 has a bit that no operand's word has; the sequence is the checksum's own
fold, started at its initial value. -/
theorem crcUpdFoldsInOneByte : Obligations.CrcUpdFoldsInOneByte := by
  refine ⟨fun b => spells_of_encode (encode_crcUpd b), fun b s => rfl,
    fun w hk hsel hne => rejects_of_not_crcForm hk (fun h => ?_) fun b h => ?_, fun p s => ?_, ?_⟩
  · simp [h, Instr.fields] at hsel
  · rw [← argHigh_fieldsOf, h] at hne
    simp [Instr.fields] at hne
  · rw [execAll_cons rfl, execAll_crcUpd]
    simp [crc8, rspOk, List.replicate_succ]
  · decide +kernel

/-! ## The checksum of a frame (R74) -/

theorem printRequest_crc (o : WireOp) (want : Bool) (s : State) (crc : Byte) :
    printRequest o want { s with crc := crc } =
      mapNext (fun t => { t with crc := crc }) (printRequest o want s) := by
  have check : printError want { s with crc := crc } = printError want s := rfl
  have payload : linePayload { s with crc := crc } = linePayload s := rfl
  rw [printRequest, printRequest, check, payload]
  cases printError want s with
  | some k => rfl
  | none => cases linePayload s <;> rfl

/-- A frame request does not read `CRC` (R74). -/
theorem exec_crc_of_frameForm {i : Instr} (hi : IsFrameForm i) (s : State) (crc : Byte) :
    exec i { s with crc := crc } = mapNext (fun t => { t with crc := crc }) (exec i s) := by
  cases i with
  | printRaw => exact printRequest_crc _ _ s crc
  | printRle => exact printRequest_crc _ _ s crc
  | lineEnc | crcClr | crcUpd | statClr | capSet => simp [IsFrameForm, Instr.fields, ReqKind.bits] at hi
  | _ => rfl

/-- What a frame form does: a frame (R75), or the error entry (R78). -/
theorem exec_next_of_frameForm {i : Instr} {s t : State} (hi : IsFrameForm i) (h : exec i s = .next t) :
    (∃ o p, t = succeed (emit (frame o p) s)) ∨ ∃ k, t = fail k s := by
  rcases exec_next h with ⟨o, p, -, ht, -⟩ | ⟨k, -, ht⟩ | ⟨c, rfl, -⟩ | ⟨rfl, -⟩ | ⟨b, rfl, -⟩ | ⟨rfl, -⟩ | ⟨c, rfl, -⟩
  case inl => exact .inl ⟨o.code, p, ht⟩
  case inr.inl => exact .inr ⟨k, ht⟩
  all_goals simp [IsFrameForm, Instr.fields, ReqKind.bits] at hi

/-- Settles O18: the frame's bytes are a function of opcode and payload, and a print's checks and payload come from
the LINE group. -/
theorem frameChecksumIgnoresTheCrcRegister : Obligations.FrameChecksumIgnoresTheCrcRegister := by
  intro i s t crc hi h
  refine ⟨(exec_crc_of_frameForm hi s crc).trans (congrArg (mapNext _) h), ?_⟩
  rcases exec_next_of_frameForm hi h with ⟨o, p, rfl⟩ | ⟨k, rfl⟩
  · exact ⟨rfl, .inr ⟨o, p, rfl⟩⟩
  · exact ⟨rfl, .inl rfl⟩

end Sys2Proof.Machine
end

/-! # Proofs: the frame encoder (spec/41_frame.md). What each frame form emits and what it leaves alone, the shape and
the length of every frame, and that a printed payload stands for the row that was encoded. -/

section
namespace Sys2Proof.Machine

open Sys2Proof.Claims

/-! ## What a frame form emits (R75, R94, R95) -/

/-- The payload lengths of R95: 11 bytes for the lattice forms, at most 2 for the other forms but the prints, at most
48 for all. -/
def PayloadFits (i : Instr) (p : List Byte) : Prop :=
  p.length ≤ 48 ∧ (i = .latticeStart ∨ i = .latticeEnd → p.length = 11) ∧
    (¬ IsPrint i → i ≠ .latticeStart → i ≠ .latticeEnd → p.length ≤ 2)

/-- The instruction has emitted nothing, or one frame whose payload fits. -/
def EmitsFitting (i : Instr) (s t : State) : Prop :=
  t.out = s.out ∨ ∃ (o : WireOp) (p : List Byte), t.out = s.out ++ frameBytes o.code p ∧ PayloadFits i p

theorem emitsFitting_of_frameRequest {i : Instr} {o : WireOp} {p : List Byte} {s t : State}
    (h : frameRequest o p s = .next t) (hp : PayloadFits i p) : EmitsFitting i s t := by
  cases h
  exact .inr ⟨o, p, rfl, hp⟩

/-- A print's payload is the line, whose bytes all have an index below 48 (R35, R78). -/
theorem emitsFitting_of_printRequest {i : Instr} {o : WireOp} {want : Bool} {s t : State} (hi : IsPrint i)
    (h : printRequest o want s = .next t) : EmitsFitting i s t := by
  rcases printRequest_next h with ⟨k, -, rfl⟩ | ⟨p, -, hp, rfl⟩
  · exact .inl rfl
  · refine .inr ⟨o, p, rfl, (length_readLineBuf hp).2, ?_, fun hn => absurd hi hn⟩
    rcases hi with rfl | rfl <;> simp

theorem payloadFits_of_length_le_two {i : Instr} {p : List Byte} (h : p.length ≤ 2) (hs : i ≠ .latticeStart)
    (he : i ≠ .latticeEnd) : PayloadFits i p :=
  ⟨by omega, fun hi => absurd hi (not_or.mpr ⟨hs, he⟩), fun _ _ _ => h⟩

theorem exec_emitsFitting {i : Instr} {s t : State} (h : exec i s = .next t) : EmitsFitting i s t := by
  cases i with
  | printRaw => exact emitsFitting_of_printRequest (.inl rfl) h
  | printRle => exact emitsFitting_of_printRequest (.inr rfl) h
  | lineEnc | crcClr | crcUpd | statClr | capSet =>
    exact .inl ((exec_out h).resolve_right (by simp [IsFrameForm, Instr.fields, ReqKind.bits]))
  | latticeStart => exact emitsFitting_of_frameRequest h ⟨by decide, fun _ => rfl, fun _ hn => absurd rfl hn⟩
  | latticeEnd => exact emitsFitting_of_frameRequest h ⟨by decide, fun _ => rfl, fun _ _ hn => absurd rfl hn⟩
  | _ =>
    refine emitsFitting_of_frameRequest h (payloadFits_of_length_le_two ?_ (by simp) (by simp))
    simp [feedPayload, bytePayload, zeroPayload, energyPayload, flowStartPayload, flowStopPayload, emptyPayload]

/-- The frame of a payload whose length fits its length byte has the shape of R94. -/
theorem frameShape_frameBytes (o : WireOp) {p : List Byte} (h : p.length ≤ 48) :
    FrameShape (frameBytes o.code p) := by
  have length : (frameBytes o.code p).length = p.length + 8 := by rw [length_frameBytes, Nat.add_comm]
  have payload : ((frameBytes o.code p).take (p.length + 6)).drop 6 = p := by simp [frameBytes]
  have checksum : (frameBytes o.code p)[p.length + 6]? = some (crc8 p) := by simp [frameBytes]
  have terminator : (frameBytes o.code p)[p.length + 7]? = some 0xFF#8 := by simp [frameBytes]
  refine ⟨by rw [length]; exact Nat.le_add_left .., rfl, rfl, ⟨o, rfl⟩, rfl, ⟨_, rfl, ?_⟩, rfl, ?_, ?_⟩
  · rw [length, toNat_ofNat_length h]
  · rw [length, show p.length + 8 - 2 = p.length + 6 from rfl, payload]
    exact checksum
  · rw [length]
    exact terminator

theorem wholeFrames_append {bytes f : List Byte} (hb : WholeFrames bytes) (hf : FrameShape f) :
    WholeFrames (bytes ++ f) := by
  obtain ⟨frames, hframes, rfl⟩ := hb
  refine ⟨frames ++ [f], fun g hg => ?_, by simp⟩
  rcases List.mem_append.mp hg with hg | hg
  · exact hframes g hg
  · exact List.mem_singleton.mp hg ▸ hf

theorem wholeFrames_nil : WholeFrames [] := ⟨[], by simp, rfl⟩

/-- An instruction emits nothing or one frame of the shape of R94. -/
theorem exec_emits_frameShape {i : Instr} {s t : State} (h : exec i s = .next t) :
    ∃ f, t.out = s.out ++ f ∧ (f = [] ∨ FrameShape f) := by
  rcases exec_emitsFitting h with hout | ⟨o, p, hout, hp, -⟩
  · exact ⟨[], by rw [hout, List.append_nil], .inl rfl⟩
  · exact ⟨_, hout, .inr (frameShape_frameBytes o hp)⟩

theorem exec_keeps_wholeFrames {i : Instr} {s t : State} (h : exec i s = .next t) (hs : WholeFrames s.out) :
    WholeFrames t.out := by
  obtain ⟨f, hout, rfl | hf⟩ := exec_emits_frameShape h
  · rwa [hout, List.append_nil]
  · exact hout ▸ wholeFrames_append hs hf

/-- Settles O20: an instruction emits nothing or one frame of a payload of at most 48 bytes, the error entry emits
nothing, reset empties `OUT`, and no other step touches it. -/
theorem emittedFramesHaveTheFrameShape : Obligations.EmittedFramesHaveTheFrameShape := by
  refine ⟨fun r s t h => ?_, fun s t hs h => ?_⟩
  · cases hd : decode r.word with
    | ok i =>
      rw [perform_ok hd] at h
      exact (exec_emits_frameShape h :)
    | error k =>
      rw [perform_error hd] at h
      cases h
      exact ⟨[], (List.append_nil _).symm, .inl rfl⟩
  · exact step_keeps (P := fun s => WholeFrames s.out) (fun ⟨_, _, _, _, _, hu⟩ hs => by rwa [hu])
      (fun _ => wholeFrames_nil) exec_keeps_wholeFrames (fun _ _ hs => hs) hs h

/-- Settles O21: the payload fits, and 48 fits in a byte. -/
theorem payloadsNeverExceed48Bytes : Obligations.PayloadsNeverExceed48Bytes := by
  intro i s t h
  rcases exec_emitsFitting h with hout | ⟨o, p, hout, hle, hlattice, hother⟩
  · exact .inl hout
  · exact .inr ⟨o, p, hout, hle, hlattice, hother, toNat_ofNat_length hle⟩

/-! ## The words of the frame forms (R53, R61) -/

/-- The word of a frame form's fields (R49). -/
theorem assemble_frameFields (o : WireOp) (sel : Bool) (arg : BitVec 16) : assemble (frameFields o sel arg) =
    arg.setWidth 32 <<< 16 ||| (o.code.setWidth 32 <<< 8 ||| if sel then 4#32 else 0#32) := by
  cases sel <;> simp [assemble, frameFields, ReqKind.bits, BitVec.or_assoc]

/-- The fields that a frame form's check admits spell it. -/
theorem spells_of_decodeFrame {o : WireOp} {sel : Bool} {arg : BitVec 16} {i : Instr}
    (h : decodeFrame (frameFields o sel arg) = .ok i) :
    Spells (arg.setWidth 32 <<< 16 ||| (o.code.setWidth 32 <<< 8 ||| if sel then 4#32 else 0#32)) i :=
  spells_of_encode (by rw [encode, ← frameFields_of_decodeFrame h, assemble_frameFields])

/-- The fields of a word with an assigned `OP` and no reserved bit set. -/
theorem fieldsOf_eq_frameFields {w : Word} {o : WireOp} (h : HasKindOp w 0#2 o.code) (hr : (fieldsOf w).rsvd = 0) :
    fieldsOf w = frameFields o (fieldsOf w).sel (fieldsOf w).arg := by
  obtain ⟨hk, hop⟩ := h
  cases hf : fieldsOf w
  simp_all [frameFields, ReqKind.bits]

/-- A word with an assigned `OP` that its form's check refuses, or with a reserved bit set: `ERR_RSVD` (R53). -/
theorem rejects_of_require {w : Word} {o : WireOp} {zero : Bool} {i : Instr} (h : HasKindOp w 0#2 o.code)
    (hd : decodeFrame (frameFields o (fieldsOf w).sel (fieldsOf w).arg) = require zero i)
    (hill : zero = false ∨ (fieldsOf w).rsvd ≠ 0) : Rejects w 1#3 := by
  have error : decode w = .error .rsvd := by
    by_cases hr : (fieldsOf w).rsvd = 0
    · rw [decode, fieldsOf_eq_frameFields h hr]
      exact hd.trans (require_error.mpr ⟨hill.resolve_right (not_not.mpr hr), rfl⟩)
    · exact decodeFields_of_rsvd hr
  exact rejects_of_decode_error error

/-- A bit set in `SEL`, or among the operand bits that must be zero, is what the check of a form without selector
refuses. -/
theorem operand_or_sel_set {n : Nat} {operand : BitVec n} {sel : Bool} {reserved : Prop}
    (h : operand ≠ 0 ∨ sel = true ∨ reserved) : (!sel && operand == 0) = false ∨ reserved := by
  cases sel with
  | true => exact .inl rfl
  | false => simpa using h

theorem emits_of_frameRequest {i : Instr} {o : WireOp} {p bytes : List Byte}
    (runs : ∀ s, exec i s = frameRequest o p s) (h : frameBytes o.code p = bytes) : Emits i bytes :=
  fun s => (runs s).trans (h ▸ frameRequest_eq o p s)

/-! ## The three shapes of a frame form, each from its check and its frame -/

theorem byteForm_of_check (o : WireOp) {form : Byte → Instr} {payload : Byte → List Byte}
    (check : ∀ sel arg, decodeFrame (frameFields o sel arg) = requireByte (frameFields o sel arg) form)
    (runs : ∀ b s, exec (form b) s = frameRequest o (payload b) s) : ByteForm o.code form payload := by
  refine ⟨fun b => ?_, fun b => emits_of_frameRequest (runs b) rfl, fun w hw hill => ?_⟩
  · have operand : (byteArg b).setWidth 32 = b.setWidth 32 := by simp [byteArg]
    have admitted := (check false (byteArg b)).trans (requireByte_ok.mpr ⟨rfl, b, rfl, rfl⟩)
    simpa [operand] using spells_of_decodeFrame admitted
  · rw [← argHigh_fieldsOf] at hill
    exact rejects_of_require hw (check _ _) (operand_or_sel_set hill)

theorem spells_of_requireNone {o : WireOp} {i : Instr}
    (check : ∀ sel arg, decodeFrame (frameFields o sel arg) = requireNone (frameFields o sel arg) i) :
    Spells (o.code.setWidth 32 <<< 8) i := by
  have admitted := (check false 0).trans (requireNone_ok.mpr ⟨rfl, rfl, rfl⟩)
  simpa using spells_of_decodeFrame admitted

theorem rejects_of_requireNone {o : WireOp} {i : Instr} {w : Word}
    (check : ∀ sel arg, decodeFrame (frameFields o sel arg) = requireNone (frameFields o sel arg) i)
    (hw : HasKindOp w 0#2 o.code)
    (hill : (fieldsOf w).arg ≠ 0 ∨ (fieldsOf w).sel = true ∨ (fieldsOf w).rsvd ≠ 0) : Rejects w 1#3 :=
  rejects_of_require hw (check _ _) (operand_or_sel_set hill)

theorem plainForm_of_check (o : WireOp) {i : Instr} {p : List Byte}
    (check : ∀ sel arg, decodeFrame (frameFields o sel arg) = requireNone (frameFields o sel arg) i)
    (runs : ∀ s, exec i s = frameRequest o p s) : PlainForm o.code i p :=
  ⟨spells_of_requireNone check, emits_of_frameRequest runs rfl, fun _ => rejects_of_requireNone check⟩

theorem selForm_of_check (o : WireOp) {sel : Bool} {i : Instr} {p : List Byte}
    (check : ∀ arg, decodeFrame (frameFields o sel arg) = require (arg == 0) i)
    (runs : ∀ s, exec i s = frameRequest o p s) : SelForm o.code sel i p := by
  refine ⟨?_, emits_of_frameRequest runs rfl, fun w hw hsel hill => ?_⟩
  · have admitted := (check 0).trans (require_ok.mpr ⟨rfl, rfl⟩)
    simpa using spells_of_decodeFrame admitted
  · exact rejects_of_require hw (hsel ▸ check _) (by simpa using hill)

/-! ## The obligations of the forms that are no print -/

/-- Settles O8: the two feed forms check and build their frames alike. -/
theorem feedFormsCarryLengthThenZero : Obligations.FeedFormsCarryLengthThenZero := by
  have rev (n : Byte) (s : State) : exec (.feedRev n) s = frameRequest .feedReverse (feedPayload n) s := rfl
  have fwd (n : Byte) (s : State) : exec (.feedFwd n) s = frameRequest .feedForward (feedPayload n) s := rfl
  exact ⟨byteForm_of_check .feedReverse (fun _ _ => rfl) rev,
    byteForm_of_check .feedForward (fun _ _ => rfl) fwd, crc8_zeros 2,
    emits_of_frameRequest (rev _) (by decide +kernel), emits_of_frameRequest (fwd _) (by decide +kernel),
    emits_of_frameRequest (fwd _) (by decide +kernel), emits_of_frameRequest (fwd _) (by decide +kernel)⟩

/-- Settles O9: none of the three takes an operand, and each builds its frame from the same payload. -/
theorem queryFormsCarryASingleZeroByte : Obligations.QueryFormsCarryASingleZeroByte := by
  have status (s : State) : exec .getStatus s = frameRequest .getDeviceStatus zeroPayload s := rfl
  have info (s : State) : exec .getInfo s = frameRequest .getDeviceInfo zeroPayload s := rfl
  have update (s : State) : exec .updateDev s = frameRequest .updateDevice zeroPayload s := rfl
  exact ⟨plainForm_of_check .getDeviceStatus (fun _ _ => rfl) status,
    plainForm_of_check .getDeviceInfo (fun _ _ => rfl) info,
    plainForm_of_check .updateDevice (fun _ _ => rfl) update,
    emits_of_frameRequest status (by decide +kernel), emits_of_frameRequest info (by decide +kernel),
    emits_of_frameRequest update (by decide +kernel)⟩

/-- Settles O10: the payload of all four is the operand byte. -/
theorem settingFormsCarryTheirByteAsGiven : Obligations.SettingFormsCarryTheirByteAsGiven := by
  have quality (b : Byte) (s : State) : exec (.setQuality b) s = frameRequest .setQuality (bytePayload b) s := rfl
  have device (b : Byte) (s : State) : exec (.deviceId b) s = frameRequest .deviceId (bytePayload b) s := rfl
  have speed (b : Byte) (s : State) : exec (.setSpeed b) s = frameRequest .setSpeed (bytePayload b) s := rfl
  have mode (b : Byte) (s : State) : exec (.setDrawMode b) s = frameRequest .setDrawingMode (bytePayload b) s := rfl
  exact ⟨byteForm_of_check .setQuality (fun _ _ => rfl) quality, byteForm_of_check .deviceId (fun _ _ => rfl) device,
    byteForm_of_check .setSpeed (fun _ _ => rfl) speed, byteForm_of_check .setDrawingMode (fun _ _ => rfl) mode,
    emits_of_frameRequest (quality _) (by decide +kernel), emits_of_frameRequest (device _) (by decide +kernel),
    emits_of_frameRequest (speed _) (by decide +kernel), emits_of_frameRequest (speed _) (by decide +kernel),
    emits_of_frameRequest (mode _) (by decide +kernel)⟩

/-- Settles O11: `SEL` picks the pattern of the constant store. -/
theorem latticeFormsEmitTheFixedPatterns : Obligations.LatticeFormsEmitTheFixedPatterns := by
  have start (s : State) : exec .latticeStart s = frameRequest .magicLattice Config.latticeStart s := rfl
  have stop (s : State) : exec .latticeEnd s = frameRequest .magicLattice Config.latticeEnd s := rfl
  exact ⟨selForm_of_check .magicLattice (fun _ => rfl) start, selForm_of_check .magicLattice (fun _ => rfl) stop,
    emits_of_frameRequest start (by decide +kernel), emits_of_frameRequest stop (by decide +kernel)⟩

/-- Settles O12: `SEL` picks the flag byte. -/
theorem flowFormsEmitTheirFlagByte : Obligations.FlowFormsEmitTheirFlagByte := by
  have start (s : State) : exec .flowStart s = frameRequest .flowControl flowStartPayload s := rfl
  have stop (s : State) : exec .flowStop s = frameRequest .flowControl flowStopPayload s := rfl
  exact ⟨selForm_of_check .flowControl (fun _ => rfl) start, selForm_of_check .flowControl (fun _ => rfl) stop,
    emits_of_frameRequest start (by decide +kernel), emits_of_frameRequest stop (by decide +kernel)⟩

/-- Settles O14: the check looks at `SEL` and `RSVD` alone, so all 16 bits of `ARG` are the operand. -/
theorem setEnergyEmitsLittleEndian : Obligations.SetEnergyEmitsLittleEndian := by
  have energy (e : BitVec 16) (s : State) : exec (.setEnergy e) s = frameRequest .setEnergy (energyPayload e) s := rfl
  have check (sel : Bool) (arg : BitVec 16) :
      decodeFrame (frameFields .setEnergy sel arg) = require (!sel) (.setEnergy arg) := rfl
  refine ⟨fun e => spells_of_decodeFrame (check false e), fun e => emits_of_frameRequest (energy e) rfl,
    fun w hw hill => rejects_of_require (o := .setEnergy) hw (check _ _) (by simpa using hill),
    emits_of_frameRequest (energy _) (by decide +kernel), emits_of_frameRequest (energy _) (by decide +kernel),
    emits_of_frameRequest (energy _) (by decide +kernel)⟩

/-! ## What a frame form does not read (R96) -/

/-- An update of the state that the effects of a frame request do not see, and that a print's checks and payload do not
see, does not matter to a frame form: it can be made before or after it. -/
theorem exec_commutes_of_frameForm {i : Instr} {s : State} {f : State → State} (hi : IsFrameForm i)
    (hemit : ∀ bytes, afterEmit bytes (f s) = f (afterEmit bytes s))
    (herror : ∀ code, afterError code (f s) = f (afterError code s))
    (hline : IsPrint i →
      (∀ want, printError want (f s) = printError want s) ∧ linePayload (f s) = linePayload s) :
    exec i (f s) = mapNext f (exec i s) := by
  have frame : ∀ o p, frameRequest o p (f s) = mapNext f (frameRequest o p s) := fun o p => by
    simp only [frameRequest_eq, mapNext, hemit]
  have print : ∀ o want, IsPrint i → printRequest o want (f s) = mapNext f (printRequest o want s) := by
    intro o want hp
    obtain ⟨check, payload⟩ := hline hp
    rw [printRequest, printRequest, check, payload]
    cases printError want s with
    | some k => exact congrArg _ (herror k.code)
    | none =>
      cases linePayload s with
      | some p => exact frame o p
      | none => rfl
  cases i with
  | printRaw => exact print _ _ (.inl rfl)
  | printRle => exact print _ _ (.inr rfl)
  | lineEnc | crcClr | crcUpd | statClr | capSet => simp [IsFrameForm, Instr.fields, ReqKind.bits] at hi
  | _ => exact frame _ _

/-- Settles O17: a frame form emits its frame or takes the error entry, and neither sees INK, `CRC` or `CONFIG`, nor,
but for a print's checks and payload, the LINE group. -/
theorem frameRequestsTouchOnlyTheirOwnState : Obligations.FrameRequestsTouchOnlyTheirOwnState := by
  refine ⟨fun i s t hi h => ?_, fun i s ink crc cap hi => ?_, fun i s v c n m hi hp => ?_⟩
  · rcases exec_next_of_frameForm hi h with ⟨o, p, rfl⟩ | ⟨k, rfl⟩
    · exact .inl ⟨frame o p, rfl⟩
    · exact .inr ⟨k.code, (code_legal k).1, rfl⟩
  · exact exec_commutes_of_frameForm (f := fun t => { t with ink := ink, crc := crc, cap := cap }) hi
      (fun _ => rfl) (fun _ => rfl) fun _ => ⟨fun _ => rfl, rfl⟩
  · exact exec_commutes_of_frameForm
      (f := fun t => { t with lineValid := v, lineComp := c, lineLen := n, lineBuf := m }) hi
      (fun _ => rfl) (fun _ => rfl) fun hi => absurd hi hp

/-! ## The line a print finds (R30, R78) -/

theorem printRequest_of_noLine {o : WireOp} {want : Bool} {s : State} (hv : s.lineValid = false) :
    printRequest o want s = .next (afterError 3#3 s) := by
  have error : printError want s = some .noLine := by simp [printError, hv]
  rw [printRequest, error]
  rfl

theorem printRequest_of_disagrees {o : WireOp} {want : Bool} {s : State} (hv : s.lineValid = true)
    (hc : s.lineComp ≠ want) : printRequest o want s = .next (afterError 4#3 s) := by
  have error : printError want s = some .printMode := by simp [printError, hv, hc]
  rw [printRequest, error]
  rfl

/-- `PRINT`'s form for the line that stands: it emits the line's frame (R67). -/
theorem exec_printForm {s : State} (hv : s.lineValid = true) (hl : s.lineLen.toNat ≤ 48) :
    exec (printForm (lineInfoByte s)) s =
      .next (afterEmit (frameBytes (if s.lineComp then 0xBF#8 else 0xA2#8) (linePrefix s)) s) := by
  rw [← readPort_lineInfo, printForm_readPort]
  cases hc : s.lineComp with
  | true => exact printRequest_of_agrees hv hc hl
  | false => exact printRequest_of_agrees hv hc hl

@[simp] theorem length_linePrefix (s : State) : (linePrefix s).length = s.lineLen.toNat := by simp [linePrefix]

/-- The payload is the first `LEN` bytes of the line buffer. -/
theorem linePrefix_eq_take {s : State} (h : s.lineLen.toNat ≤ 48) :
    linePrefix s = (lineBytes s).take s.lineLen.toNat := by
  rw [linePrefix, lineBytes, ← List.map_take, List.take_range, min_eq_left h]

/-- A valid line that is not compressed is in case (b) of R30. -/
theorem linePacked_of_lineOk {s : State} (h : LineOk s) (hv : s.lineValid = true) (hc : s.lineComp = false) :
    LinePacked s := by
  rcases h with ⟨hv', -⟩ | hpacked | ⟨-, hc', -⟩
  · simp [hv] at hv'
  · exact hpacked
  · simp [hc] at hc'

/-- A valid line that is compressed is in case (c) of R30. -/
theorem lineCompressed_of_lineOk {s : State} (h : LineOk s) (hv : s.lineValid = true) (hc : s.lineComp = true) :
    LineCompressed s := by
  rcases h with ⟨hv', -⟩ | ⟨-, hc', -⟩ | hcompressed
  · simp [hv] at hv'
  · simp [hc] at hc'
  · exact hcompressed

/-- A valid line of R30 is not empty. -/
theorem lineLen_pos_of_lineOk {s : State} (h : LineOk s) (hv : s.lineValid = true) : 1 ≤ s.lineLen.toNat := by
  rcases h with ⟨hv', -⟩ | ⟨-, -, hl, -⟩ | ⟨-, -, hl, -⟩
  · simp [hv] at hv'
  · simp [hl]
  · omega

/-- The selector compresses when compression is effective and the stream fits (R103). -/
theorem select_comp (ink : Ink) (ce : Bool) :
    (select ink ce).comp = (ce && decide ((rle ink).length ≤ 48)) := by
  unfold select
  split_ifs with h
  · exact h.symm
  · exact (Bool.not_eq_true _ ▸ h).symm

/-- The selected line's first `len` bytes are the stream without the zeros after it, or the whole packed row. -/
theorem take_buf_select (ink : Ink) (ce : Bool) :
    (select ink ce).buf.take (select ink ce).len = if (select ink ce).comp then rle ink else pack ink := by
  rcases select_cases ink ce with h | ⟨-, h⟩ <;> rw [h]
  · simp
  · simp

/-- The line `LINE.ENC` leaves: valid, within the buffer, compressed exactly if that was asked for, allowed and short
enough, and what a print of it carries (R78, R105). -/
theorem exec_lineEnc_line {c : Bool} {s t : State} (h : exec (.lineEnc c) s = .next t) :
    t.lineValid = true ∧ t.lineLen.toNat ≤ 48 ∧
      t.lineComp = (c && s.cap && decide ((rle s.ink).length ≤ 48)) ∧
      linePrefix t = if t.lineComp then rle s.ink else pack s.ink := by
  cases h
  have ⟨hlen, hbuf⟩ := length_select s.ink (effectiveCompression c s.cap)
  generalize hl : select s.ink (effectiveCompression c s.cap) = l at hlen hbuf
  have len : (writeLine l s.ink s).lineLen.toNat = l.len := by
    rw [writeLine_lineLen, BitVec.toNat_ofNat]
    omega
  have payload : linePrefix (writeLine l s.ink s) = l.buf.take l.len := by
    rw [linePrefix_eq_take (len ▸ hlen), len, lineBytes_writeLine l s.ink s hbuf]
  refine ⟨rfl, len ▸ hlen, ?_, payload.trans ?_⟩
  · exact hl ▸ select_comp s.ink (effectiveCompression c s.cap)
  · exact hl ▸ take_buf_select s.ink (effectiveCompression c s.cap)

/-! ## The obligations of the prints, and of the one form with an empty payload -/

/-- Settles O13: the payload of every other form has a byte; a print's is a valid line of R30, which is not empty. -/
theorem setWifiEmitsTheOneEmptyPayload : Obligations.SetWifiEmitsTheOneEmptyPayload := by
  have wifi (s : State) : exec .setWifi s = frameRequest .setWifi emptyPayload s := rfl
  refine ⟨plainForm_of_check .setWifi (fun _ _ => rfl) wifi, rfl, emits_of_frameRequest wifi (by decide +kernel),
    fun i s t hline hi h => ?_⟩
  rcases exec_next h with
    ⟨o, p, -, rfl, hp⟩ | ⟨_, _, rfl⟩ | ⟨_, _, rfl⟩ | ⟨_, rfl⟩ | ⟨_, _, rfl⟩ | ⟨_, rfl⟩ | ⟨_, _, rfl⟩
  case inl =>
    have nonempty : 1 ≤ p.length := by
      rcases hp with ⟨-, -, hp⟩ | ⟨-, hv, hp⟩
      · exact hp hi
      · rw [(length_readLineBuf hp).1]
        exact lineLen_pos_of_lineOk hline hv
    refine .inr ?_
    rw [succeed_out, emit_out, List.length_append, length_frame]
    omega
  all_goals exact .inl rfl

/-- Settles O15: the checks of R78, then the line's frame; a packed line of R30 is the whole buffer. -/
theorem printRawEmitsThePackedLine : Obligations.PrintRawEmitsThePackedLine := by
  refine ⟨spells_of_requireNone (o := .printUncompressed) fun _ _ => rfl,
    fun s hv hc hl => printRequest_of_agrees hv hc hl,
    fun s hv => printRequest_of_noLine hv, fun s hv hc => printRequest_of_disagrees hv (by simp [hc]),
    fun w => rejects_of_requireNone (o := .printUncompressed) fun _ _ => rfl, fun s hline hv hc => ?line, crc8_zeros 48,
    fun s t hink h => ?evenRow⟩
  case line =>
    obtain ⟨-, -, hlen, -⟩ := linePacked_of_lineOk hline hv hc
    have len : s.lineLen.toNat = 48 := by rw [hlen]; rfl
    have lengthByte : (frameBytes 0xA2#8 (linePrefix s))[4]? = some (BitVec.ofNat 8 (linePrefix s).length) := rfl
    refine ⟨by rw [linePrefix, len, lineBytes], by rw [length_frameBytes, length_linePrefix, len], ?_⟩
    rw [lengthByte, length_linePrefix, len]
  case evenRow =>
    have long : (rle evenRow).length = 384 := by decide +kernel
    have bytes : frameBytes 0xA2#8 (pack evenRow) = [0x51#8, 0x78#8, 0xA2#8, 0x00#8, 0x30#8, 0x00#8] ++
        List.replicate 48 0x55#8 ++ [0xA5#8, 0xFF#8] := by decide +kernel
    obtain ⟨hv, hl, hc, hp⟩ := exec_lineEnc_line h
    have packed : t.lineComp = false := by simp [hc, hink, long]
    have payload : linePrefix t = pack evenRow := by simp [hp, hink, packed]
    rw [← bytes, ← payload]
    exact printRequest_of_agrees hv packed hl

/-- Settles O16: the checks of R78, then the line's frame; a compressed line of R30 has 4 to 48 bytes. -/
theorem printRleEmitsTheRunLengthStream : Obligations.PrintRleEmitsTheRunLengthStream := by
  refine ⟨spells_of_requireNone (o := .printCompressed) fun _ _ => rfl,
    fun s hv hc hl => printRequest_of_agrees hv hc hl,
    fun s hv => printRequest_of_noLine hv, fun s hv hc => printRequest_of_disagrees hv (by simp [hc]),
    fun w => rejects_of_requireNone (o := .printCompressed) fun _ _ => rfl, fun s hline hv hc => ?line,
    fun s t hink hcap h => ?blankRow⟩
  case line =>
    obtain ⟨-, -, hmin, hmax, -⟩ := lineCompressed_of_lineOk hline hv hc
    exact ⟨hmin, hmax, fun hlen => by rw [length_frameBytes, length_linePrefix, hlen]⟩
  case blankRow =>
    have short : (rle 0).length ≤ 48 := by decide +kernel
    have bytes : frameBytes 0xBF#8 (rle 0) = [0x51#8, 0x78#8, 0xBF#8, 0x00#8, 0x04#8, 0x00#8, 0x7F#8, 0x7F#8, 0x7F#8,
        0x03#8, 0xA8#8, 0xFF#8] := by decide +kernel
    obtain ⟨hv, hl, hc, hp⟩ := exec_lineEnc_line h
    have compressed : t.lineComp = true := by simpa [hc, hink, hcap] using short
    have payload : linePrefix t = rle 0 := by simp [hp, hink, compressed]
    rw [← bytes, ← payload]
    exact printRequest_of_agrees hv compressed hl

/-! ## End to end (R99, R102, R135) -/

/-- Pixel x is bit `x % 8` of packed byte `x / 8` (R99). -/
theorem unpackBit_pack (ink : Ink) {x : Nat} (h : x < 384) : unpackBit (pack ink) x = inkBit ink x := by
  have byte : (pack ink).getD (x / 8) 0x00#8 = packByte ink (x / 8) := by
    have : x / 8 < 48 := by omega
    simp [pack, this]
  rw [unpackBit, byte, packByte_bit _ _ _ (Nat.mod_lt _ (by norm_num)), Nat.div_add_mod]

/-- Packing loses nothing (R99). -/
theorem unpack_pack (ink : Ink) : unpack (pack ink) = ink := by
  refine BitVec.eq_of_getLsbD_eq fun x hx => ?_
  exact (inkBit_inkOf _ x hx).trans (unpackBit_pack ink hx)

theorem unrle_append (r q : List Byte) : unrle (r ++ q) = unrle r ++ unrle q := by simp [unrle]

theorem unrle_codeByte (v : Bool) {n : Nat} (h : n < 128) : unrle [codeByte v n] = List.replicate n v := by
  obtain ⟨value, count⟩ := codeByte_spec v n h
  simp only [unrle, List.flatMap_singleton, value, count]

theorem unrle_replicate_codeByte (v : Bool) (k : Nat) {n : Nat} (h : n < 128) :
    unrle (List.replicate k (codeByte v n)) = List.replicate (k * n) v := by
  induction k with
  | zero => simp [unrle]
  | succ k ih =>
    rw [List.replicate_succ', unrle_append, ih, unrle_codeByte v h, List.replicate_append_replicate, Nat.succ_mul]

/-- The codes of a run expand to the run (R100, R102). -/
theorem unrle_runCodes (v : Bool) (n : Nat) : unrle (runCodes v n) = List.replicate n v := by
  have full := unrle_replicate_codeByte v (n / 127) (n := 127) (by norm_num)
  have remainder : unrle (if 0 < n % 127 then [codeByte v (n % 127)] else []) = List.replicate (n % 127) v := by
    split_ifs with h
    · exact unrle_codeByte v (by omega)
    · simp [unrle, Nat.eq_zero_of_not_pos h]
  rw [runCodes, unrle_append, full, remainder, List.replicate_append_replicate, Nat.div_add_mod']

/-- Run-length coding loses nothing (R102). -/
theorem unrle_rle (ink : Ink) : unrle (rle ink) = inkRow ink := by
  have expand : ∀ rs : List (Bool × Nat),
      unrle (rs.flatMap fun r => runCodes r.1 r.2) = rs.flatMap fun r => List.replicate r.2 r.1 := by
    intro rs
    induction rs with
    | nil => rfl
    | cons r rs ih => rw [List.flatMap_cons, unrle_append, unrle_runCodes, ih, List.flatMap_cons]
  exact (expand (runs (inkRow ink))).trans (runs_flatMap (inkRow ink))

/-- Settles O30: `CAP.SET` leaves the line alone, a print carries the stream or the packed row, and neither coding loses
anything. -/
theorem printedPayloadRecoversTheRow : Obligations.PrintedPayloadRecoversTheRow := by
  intro c cap s t u henc hcap
  obtain ⟨hv, hl, -, payload⟩ := exec_lineEnc_line henc
  cases hcap
  refine ⟨linePrefix t, exec_printForm (s := succeed { t with cap := cap }) hv hl, ?_⟩
  simp only [succeed_lineComp, payload]
  split_ifs
  · exact unrle_rle s.ink
  · exact unpack_pack s.ink

end Sys2Proof.Machine
end

/-! # Proofs: the line encoder (spec/42_line.md). The packed row is one to one with the row, the laws of the run-length
stream, what `LINE.ENC` writes, and how long the payload of a print after it can be. -/

section
namespace Sys2Proof.Machine

open Sys2Proof.Claims

/-! ## The packer (R98, R99) -/

theorem getElem?_pack (ink : Ink) {i : Nat} (h : i < 48) : (pack ink)[i]? = some (packByte ink i) := by
  simp [pack, h]

/-- Every pixel's bit comes back out of the row (R99 (b)). -/
theorem packByte_unpack {p : List Byte} {i : Nat} (hi : i < 48) : packByte (unpack p) i = p.getD i 0x00#8 := by
  refine BitVec.eq_of_getLsbD_eq fun j hj => ?_
  rw [packByte_bit _ _ _ hj, unpack, inkBit_inkOf _ _ (by omega), unpackBit, show (8 * i + j) / 8 = i by omega,
    show (8 * i + j) % 8 = j by omega]

theorem pack_unpack {p : List Byte} (h : p.length = 48) : pack (unpack p) = p := by
  refine List.ext_getElem? fun i => ?_
  rcases lt_or_ge i 48 with hi | hi
  · have listed : i < p.length := h.symm ▸ hi
    rw [getElem?_pack _ hi, packByte_unpack hi, List.getD_eq_getElem _ _ listed, List.getElem?_eq_getElem listed]
  · rw [List.getElem?_eq_none (by simpa using hi), List.getElem?_eq_none (h.le.trans hi)]

/-- Bit j of byte i is bit 8i + j of the number on the INK bus. -/
theorem packByte_eq_ofNat (ink : Ink) (i : Nat) : packByte ink i = BitVec.ofNat 8 (ink.toNat / 256 ^ i) := by
  refine BitVec.eq_of_getLsbD_eq fun j hj => ?_
  have weight : 256 ^ i = 2 ^ (8 * i) := (pow_mul 2 8 i).symm
  rw [packByte_bit _ _ _ hj, inkBit, BitVec.getLsbD_ofNat, weight, Nat.testBit_div_two_pow, BitVec.testBit_toNat,
    decide_eq_true hj, Bool.true_and, Nat.add_comm]

/-- Settles O25: packing and unpacking move pixel 8i + j to bit j of byte i and back, which is where the number on the
INK bus has it. -/
theorem packIsABijection : Obligations.PackIsABijection := by
  refine ⟨length_pack, fun ink x hx => (unpackBit_pack ink hx).symm, unpack_pack, fun p => pack_unpack,
    fun ink i hi => packByte_eq_ofNat ink i ▸ getElem?_pack ink hi, ?examples⟩
  case examples => decide +kernel

/-! ## The laws of the run-length stream (R100, R101) -/

/-- What c can be before d in a stream: it has another value, or it is full. -/
def CanPrecede (c d : Byte) : Prop := c.getLsbD 7 = d.getLsbD 7 → c.extractLsb' 0 7 = 127#7

theorem canPrecede_of_full (v : Bool) (d : Byte) : CanPrecede (codeByte v 127) d :=
  fun _ => BitVec.eq_of_toNat_eq (codeByte_spec v 127 (by norm_num)).2

theorem value_of_mem_runCodes {v : Bool} {n : Nat} {c : Byte} (h : c ∈ runCodes v n) : c.getLsbD 7 = v := by
  obtain ⟨k, -, hk, rfl⟩ := mem_runCodes h
  exact (codeByte_spec v k (by omega)).1

theorem one_le_count_of_mem_runCodes {v : Bool} {n : Nat} {c : Byte} (h : c ∈ runCodes v n) :
    1 ≤ (c.extractLsb' 0 7).toNat := by
  obtain ⟨k, hk1, hk, rfl⟩ := mem_runCodes h
  rwa [(codeByte_spec v k (by omega)).2]

theorem runCodes_ne_nil (v : Bool) {n : Nat} (h : 1 ≤ n) : runCodes v n ≠ [] := by
  rw [← List.length_pos_iff, length_runCodes]
  omega

/-- Within a run every code but the last is full. -/
theorem isChain_runCodes (v : Bool) (n : Nat) : (runCodes v n).IsChain CanPrecede := by
  refine List.isChain_append.mpr ⟨List.isChain_replicate_of_rel _ (canPrecede_of_full v _), ?remainder, ?junction⟩
  case remainder => split_ifs <;> simp
  case junction =>
    intro c hc d _
    obtain rfl := List.eq_of_mem_replicate (List.mem_of_mem_getLast? hc)
    exact canPrecede_of_full v d

/-- Between two runs the value changes. -/
theorem isChain_rleBits (bits : List Bool) : (rleBits bits).IsChain CanPrecede := by
  have nonempty : [] ∉ (runs bits).map fun r => runCodes r.1 r.2 := by
    intro h
    obtain ⟨r, hr, hnil⟩ := List.mem_map.mp h
    exact runCodes_ne_nil r.1 (runs_pos bits r hr) hnil
  rw [rleBits, List.flatMap_def, List.isChain_flatten nonempty, List.isChain_map]
  refine ⟨fun codes hcodes => ?within, (runs_alternate bits).imp fun r q hne c hc d hd hsame => ?between⟩
  case within =>
    obtain ⟨r, -, rfl⟩ := List.mem_map.mp hcodes
    exact isChain_runCodes r.1 r.2
  case between =>
    rw [value_of_mem_runCodes (List.mem_of_mem_getLast? hc), value_of_mem_runCodes (List.mem_of_mem_head? hd)] at hsame
    exact absurd hsame hne

theorem length_rleBits (bits : List Bool) :
    (rleBits bits).length = ((runs bits).map fun r => (r.2 + 126) / 127).sum := by
  simp only [rleBits, List.length_flatMap, length_runCodes]

theorem one_le_count_of_mem_rle {ink : Ink} {c : Byte} (h : c ∈ rle ink) : 1 ≤ (c.extractLsb' 0 7).toNat := by
  obtain ⟨r, -, hc⟩ := List.mem_flatMap.mp h
  exact one_le_count_of_mem_runCodes hc

/-- The counts add up to the length of the expansion. -/
theorem sum_counts (codes : List Byte) :
    (codes.map fun c => (c.extractLsb' 0 7).toNat).sum = (unrle codes).length := by
  simp only [unrle, List.length_flatMap, List.length_replicate]

@[simp] theorem length_inkRow (ink : Ink) : (inkRow ink).length = 384 := by simp [inkRow]

/-- A stream expands to the row, so its counts add up to 384 (R101 (e)). -/
theorem sum_counts_rle (ink : Ink) : ((rle ink).map fun c => (c.extractLsb' 0 7).toNat).sum = 384 := by
  rw [sum_counts, unrle_rle, length_inkRow]

/-- The longest stream: every code byte carries a pixel (R101 (b)). -/
theorem length_rle_le (ink : Ink) : (rle ink).length ≤ 384 := by
  have counts : ∀ n ∈ (rle ink).map fun c => (c.extractLsb' 0 7).toNat, 1 ≤ n := by
    simpa only [List.forall_mem_map] using fun c hc => one_le_count_of_mem_rle hc
  calc (rle ink).length = ((rle ink).map fun c => (c.extractLsb' 0 7).toNat).length := (List.length_map _).symm
    _ ≤ ((rle ink).map fun c => (c.extractLsb' 0 7).toNat).sum := List.length_le_sum_of_one_le _ counts
    _ = 384 := sum_counts_rle ink

theorem length_rle_evenRow : (rle evenRow).length = 384 := by decide +kernel

/-- Settles O26: the runs are the row cut where its value changes; within a run every code but the last is full, and the
counts are those of the expansion, which is the row. -/
theorem runLengthLaws : Obligations.RunLengthLaws := by
  refine ⟨fun ink => ⟨runs_flatMap _, runs_pos _, runs_alternate _, length_rleBits _⟩,
    fun ink => ⟨four_le_length_rle ink, length_rle_le ink⟩, fun _ _ => one_le_count_of_mem_rle,
    fun ink => isChain_rleBits (inkRow ink), sum_counts_rle, length_rle_evenRow, ?examples⟩
  case examples => decide +kernel

/-- Settles O27: the codes of a run expand to the run, and the runs together are the row. -/
theorem expansionInvertsRunLengthCoding : Obligations.ExpansionInvertsRunLengthCoding :=
  ⟨fun _ => rfl, unrle_rle⟩

/-! ## `LINE.ENC` (R103 to R106) -/

/-- What `LINE.ENC` has the selector pick: the stream if c and `CAP` are 1 and it fits, else the packed row (R103, R104). -/
theorem select_effectiveCompression (ink : Ink) (c cap : Bool) :
    select ink (effectiveCompression c cap) =
      if c = true ∧ cap = true ∧ (rle ink).length ≤ 48 then
        ⟨true, (rle ink).length, rle ink ++ List.replicate (48 - (rle ink).length) 0x00#8⟩
      else ⟨false, 48, pack ink⟩ := by
  simp only [select, effectiveCompression, Bool.and_eq_true, decide_eq_true_eq, and_assoc]

/-- The bytes of `LINE_BUF` after it is written with 48 bytes (R105). -/
theorem getElem?_eq_read_writeLineBuf {buf : List Byte} (h : buf.length = 48) (m : Memory) {i : Nat} (hi : i < 48) :
    buf[i]? = some ((writeLineBuf buf m).read i) := by
  rw [Memory.read_writeLineBuf, if_pos hi, List.getD_eq_getElem _ _ (h.symm ▸ hi), List.getElem?_eq_getElem]

/-- An index the block does not have is not written. -/
theorem read_writeLineBuf_of_le (buf : List Byte) (m : Memory) {i : Nat} (hi : 48 ≤ i) :
    (writeLineBuf buf m).read i = m.read i := by
  rw [Memory.read_writeLineBuf, if_neg hi.not_gt]

/-- An illegal word of the LINE class: its fields are those of neither value of c (R54). -/
theorem rejects_of_not_lineForm {w : Word} (hk : (fieldsOf w).kind = 0b01#2)
    (hill : (fieldsOf w).op ≠ 0 ∨ (fieldsOf w).arg ≠ 0 ∨ (fieldsOf w).rsvd ≠ 0) : Rejects w 1#3 := by
  refine rejects_of_fields_ne (by simp [hk]) fun i hi => ?_
  cases i with
  | lineEnc c => simp [hi, Instr.fields] at hill
  | _ => simp [hi, Instr.fields, frameFields, ReqKind.bits] at hk

theorem exec_lineEnc (c : Bool) (s : State) :
    exec (.lineEnc c) s =
      .next (succeed (writeLine (select s.ink (effectiveCompression c s.cap)) s.ink s)) := rfl

theorem select_blank : select 0 true = ⟨true, 4, [0x7F#8, 0x7F#8, 0x7F#8, 0x03#8] ++ List.replicate 44 0x00#8⟩ := by
  decide +kernel

/-- Settles O28: `LINE.ENC` writes the selected line, whose 48 bytes are all of `LINE_BUF`. -/
theorem lineEncWritesTheSelectedLine : Obligations.LineEncWritesTheSelectedLine := by
  refine ⟨spells_of_encode (by decide), spells_of_encode (by decide), fun c s => ?line,
    fun w hk hill => rejects_of_not_lineForm hk hill, by rw [length_rle_evenRow]; norm_num, fun s hcap hink => ?blankRow⟩
  case line =>
    have ⟨hlen, hbuf⟩ := length_select s.ink (effectiveCompression c s.cap)
    have hsel := select_effectiveCompression s.ink c s.cap
    have henc := exec_lineEnc c s
    generalize select s.ink (effectiveCompression c s.cap) = l at hlen hbuf hsel henc
    refine ⟨l.comp, l.len, l.buf, writeLineBuf l.buf s.lineBuf, henc, ?selected, hbuf, hlen,
      fun i => getElem?_eq_read_writeLineBuf hbuf s.lineBuf, fun i => read_writeLineBuf_of_le l.buf s.lineBuf⟩
    case selected => split_ifs at hsel ⊢ <;> simp [hsel]
  case blankRow =>
    have effective : effectiveCompression true s.cap = true := by rw [hcap]; rfl
    refine ⟨_, exec_lineEnc true s, ?_⟩
    rw [hink, effective, select_blank]
    exact ⟨rfl, rfl, rfl, (lineBytes_succeed _).trans (lineBytes_writeLine _ _ _ rfl)⟩

/-- The payload of a full line is the whole buffer. -/
theorem linePrefix_eq_lineBytes {s : State} (h : s.lineLen.toNat = 48) : linePrefix s = lineBytes s := by
  rw [linePrefix, lineBytes, h]

/-- Settles O29: the form picked prints the line that stands, which fits the buffer and is as long as the stream, or, where
the stream does not fit, is the packed row. -/
theorem encodedLineIsNeverLargerThanPacked : Obligations.EncodedLineIsNeverLargerThanPacked := by
  intro c s t h
  obtain ⟨hv, hl, hc, payload⟩ := exec_lineEnc_line h
  refine ⟨⟨linePrefix t, exec_printForm hv hl, by rwa [length_linePrefix], rfl⟩, fun _ => by rwa [length_pack],
    fun hlong => ?fallback⟩
  case fallback =>
    have packed : t.lineComp = false := by simp [hc, hlong]
    have payloadPacked : linePrefix t = pack s.ink := by simp [payload, packed]
    have full : t.lineLen.toNat = 48 := by rw [← length_linePrefix, payloadPacked, length_pack]
    exact ⟨packed, (linePrefix_eq_lineBytes full).symm.trans payloadPacked⟩

end Sys2Proof.Machine
end

/-! # Proofs: control and the read port (spec/43_control.md). What the two control requests change, what each address of
the read port answers, and when a read is answered. -/

section
namespace Sys2Proof.Machine

open Sys2Proof.Claims

/-! ## The control requests (R109, R110) -/

/-- An illegal word of the CTRL class: its fields are those of neither form (R54). -/
theorem rejects_of_not_ctrlForm {w : Word} (hk : (fieldsOf w).kind = 0b11#2) (hclr : fieldsOf w ≠ Instr.statClr.fields)
    (hcap : ∀ c, fieldsOf w ≠ (Instr.capSet c).fields) : Rejects w 1#3 := by
  refine rejects_of_fields_ne (by simp [hk]) fun i hi => ?_
  cases i with
  | statClr => exact hclr hi
  | capSet c => exact hcap c hi
  | _ => simp [hi, Instr.fields, frameFields, ReqKind.bits] at hk

/-- A blank row, where compression is effective, gives the four codes of its stream, then zeros (R103, R105). -/
theorem exec_lineEnc_blank {s : State} (hcap : s.cap = true) (hink : s.ink = 0) :
    exec (.lineEnc true) s =
      .next (succeed (writeLine ⟨true, 4, [0x7F#8, 0x7F#8, 0x7F#8, 0x03#8] ++ List.replicate 44 0x00#8⟩ 0 s)) := by
  have effective : effectiveCompression true s.cap = true := by rw [hcap]; rfl
  rw [exec_lineEnc, hink, effective, select_blank]

theorem statusByte_succeed_clearStatus (s : State) : statusByte (succeed (clearStatus s)) = 0x00#8 := by
  simp [statusByte, flagByte]

/-- Settles O31: an illegal word has a must-be-zero bit set that `STAT.CLR`'s one word has not, or a reserved `OP`. -/
theorem statClrClearsTheStatus : Obligations.StatClrClearsTheStatus := by
  refine ⟨spells_of_encode (by decide), fun s => rfl, fun w ⟨hk, hop⟩ hne => ?mustBeZero, fun w hk hop => ?reservedOp,
    fun s _ => ⟨_, rfl, statusByte_succeed_clearStatus s⟩⟩
  case mustBeZero =>
    refine rejects_of_not_ctrlForm hk (fun h => ?_) fun c h => ?_
    · simp [h, Instr.fields] at hne
    · simp [h, Instr.fields] at hop
  case reservedOp => exact rejects_of_not_wellFormed (not_wellFormed_of_control_op hk hop) fun hn => by simp [hk] at hn

/-- Settles O32: an illegal word has a must-be-zero bit set that no word of `CAP.SET` has; `LINE.ENC` then finds the
capability. -/
theorem capSetWritesTheCapability : Obligations.CapSetWritesTheCapability := by
  refine ⟨spells_of_encode (by decide), spells_of_encode (by decide), fun c s => rfl,
    fun w ⟨hk, hop⟩ hne => ?mustBeZero, rfl, fun s t u hset => ?capable⟩
  case mustBeZero =>
    refine rejects_of_not_ctrlForm hk (fun h => ?_) fun c h => ?_
    · simp [h, Instr.fields] at hop
    · simp [h, Instr.fields] at hne
  case capable =>
    cases hset
    refine ⟨rfl, fun hink henc => ?_⟩
    rw [exec_lineEnc_blank rfl hink] at henc
    cases henc
    rfl

/-! ## The register map (R26, R111) -/

/-- Above the five registers: the window of the line buffer, and 0x00 outside it. -/
theorem readPort_of_four_lt {a : Byte} (h : 4 < a.toNat) (s : State) :
    readPort a s = if 0x10 ≤ a.toNat ∧ a.toNat ≤ 0x3F then s.lineBuf.read (a.toNat - 0x10) else 0x00#8 := by
  have not_register : ∀ r : Byte, r.toNat ≤ 4 → a ≠ r := fun r hr ha => by
    rw [ha] at h
    omega
  simp [readPort, not_register]

theorem readPort_lineBuf (s : State) {i : Nat} (hi : i < 48) :
    readPort (BitVec.ofNat 8 (0x10 + i)) s = s.lineBuf.read i := by
  have address : (BitVec.ofNat 8 (0x10 + i)).toNat = 0x10 + i := by
    rw [BitVec.toNat_ofNat]
    omega
  rw [readPort_of_four_lt (by omega), address, if_pos (by omega), Nat.add_sub_cancel_left]

/-- The window shows the line written last (R105). -/
theorem readPort_lineBuf_writeLine (l : Line) (ink : Ink) (s : State) {i : Nat} (hi : i < 48) :
    readPort (BitVec.ofNat 8 (0x10 + i)) (succeed (writeLine l ink s)) = l.buf.getD i 0x00#8 := by
  rw [readPort_lineBuf _ hi, succeed_lineBuf, writeLine_lineBuf, Memory.read_writeLineBuf, if_pos hi]

theorem readPort_unmapped (s : State) {a : Byte} (h : 4 < a.toNat ∧ a.toNat < 0x10 ∨ 0x3F < a.toNat) :
    readPort a s = 0x00#8 := by
  rw [readPort_of_four_lt (by omega), if_neg (by omega)]

theorem lineInfoByte_eq (s : State) :
    lineInfoByte s = (if s.lineComp then 2#8 else 0#8) ||| (if s.lineValid then 1#8 else 0#8) := by
  unfold lineInfoByte
  cases s.lineComp <;> rfl

/-! Reserved bits of the registers (R21, R22, R23, R25) -/

theorem statusByte_reserved (s : State) : (statusByte s).extractLsb' 4 4 = 0 := by
  have layout : ∀ (code : Rsp) (err : Bool), (code.setWidth 8 <<< 1 ||| flagByte err).extractLsb' 4 4 = 0 := by decide
  exact layout s.statusCode s.statusErr

theorem lineInfoByte_reserved (s : State) : (lineInfoByte s).extractLsb' 2 6 = 0 := by
  unfold lineInfoByte
  cases s.lineComp <;> cases s.lineValid <;> rfl

theorem lineLenByte_reserved (s : State) : (lineLenByte s).extractLsb' 6 2 = 0 := by
  refine BitVec.eq_of_getLsbD_eq fun i hi => ?_
  simp [lineLenByte]

theorem configByte_reserved (s : State) : (configByte s).extractLsb' 1 7 = 0 := by
  unfold configByte
  cases s.cap <;> rfl

/-! ## When a read is answered (R40, R111, R136) -/

theorem advance_read {s : State} {a : Byte} {rest : List HostAction} (ho : s.outstanding = none)
    (hh : s.host = .read a :: rest) : advance s = .next (answerRead a { s with host := rest }) := by
  simp [advance, ho, hh]

theorem hold_read {s : State} {a : Byte} {rest : List HostAction} (ho : s.outstanding = none)
    (hh : s.host = .read a :: rest) : hold s = answerRead a { s with host := rest } := by
  simp [hold, ho, hh]

theorem nextRequest_read {s : State} {a : Byte} {rest : List HostAction} (ho : s.outstanding = none)
    (hh : s.host = .read a :: rest) : nextRequest s = none := by
  simp [nextRequest, ho, hh]

/-- With the samples exhausted, a block without a request goes on, downstream stuck or not. -/
theorem step_exhausted_of_none {s : State} (he : s.env = []) (hr : nextRequest s = none) : step s = advance s := by
  simp [step, he, stall_none hr]

/-- An idle block answers the read presented, whatever the environment's sample but `rst`, downstream stuck or not: a
read emits nothing. -/
theorem step_read {s : State} {a : Byte} {rest : List HostAction} (ho : s.outstanding = none)
    (hh : s.host = .read a :: rest) (hrst : ¬ ResetArrives s) :
    step s = .next (answerRead a { s with host := rest, env := s.env.tail }) := by
  cases he : s.env with
  | nil =>
    have exhausted : { s with host := rest, env := [] } = { s with host := rest } := by rw [← he]
    rw [step_exhausted_of_none he (nextRequest_read ho hh), advance_read ho hh, List.tail_nil, exhausted]
  | cons sample env =>
    simp only [step, he, List.tail_cons]
    cases sample with
    | go => exact advance_read (s := { s with env := env }) ho hh
    | wait => exact congrArg Host.Outcome.next (hold_read (s := { s with env := env }) ho hh)
    | rst => simp [ResetArrives, he] at hrst

/-- No instruction answers a read. -/
theorem exec_reads {i : Instr} {s t : State} (h : exec i s = .next t) : t.reads = s.reads := by
  rcases exec_next h with
    ⟨_, _, _, rfl, _⟩ | ⟨_, _, rfl⟩ | ⟨_, _, rfl⟩ | ⟨_, rfl⟩ | ⟨_, _, rfl⟩ | ⟨_, rfl⟩ | ⟨_, _, rfl⟩
  all_goals rfl

theorem perform_reads {r : Request} {s t : State} (h : perform r s = .next t) : t.reads = s.reads := by
  cases hd : decode r.word with
  | ok i =>
    rw [perform_ok hd] at h
    exact (exec_reads h :)
  | error k =>
    rw [perform_error hd] at h
    cases h
    rfl

/-- A step that finds a request outstanding completes it, or holds it and with it every read behind it. -/
theorem step_reads_of_outstanding {s t : State} {r : Request} (ho : s.outstanding = some r) (hrst : ¬ ResetArrives s)
    (h : step s = .next t) : t.reads = s.reads := by
  rcases step_next h with ⟨env, he, -⟩ | ⟨-, _, _, _, -, hp⟩ | ⟨-, _, _, _, _, _, -, held, rfl⟩
  · simp [ResetArrives, he] at hrst
  · exact (perform_reads hp :)
  · exact held (by simp [ho])

/-- Settles O33: an address is one of the five registers, in the window of the line buffer, or 0x00; a read at an idle
block changes nothing the read port shows. -/
theorem readPortAnswersTheRegisterMap : Obligations.ReadPortAnswersTheRegisterMap := by
  refine ⟨fun s => ⟨rfl, rfl, lineInfoByte_eq s, rfl, rfl⟩, fun s i hi => readPort_lineBuf s hi,
    fun s a ha => readPort_unmapped s ha,
    fun s => ⟨statusByte_reserved s, lineInfoByte_reserved s, lineLenByte_reserved s, configByte_reserved s⟩,
    fun s a rest ho hh hrst => step_read ho hh hrst, fun s a b rest => rfl,
    fun s t r ho hrst h => step_reads_of_outstanding ho hrst h, fun s t u hink hset henc => ?blankRow⟩
  case blankRow =>
    obtain ⟨hcap, hink⟩ : t.cap = true ∧ t.ink = 0 := by
      cases hset
      exact ⟨rfl, hink⟩
    rw [exec_lineEnc_blank hcap hink] at henc
    cases henc
    exact ⟨by simp [readPort_lineInfo, lineInfoByte_eq], rfl, readPort_lineBuf_writeLine _ 0 t (i := 0) (by decide),
      readPort_lineBuf_writeLine _ 0 t (i := 3) (by decide), readPort_lineBuf_writeLine _ 0 t (i := 4) (by decide),
      congrArg flagByte hcap⟩

end Sys2Proof.Machine
end

/-! # Proofs: errors (spec/60_exceptions.md). Which cause of an error is reported, what a request that ends in error
changes, how long the error stands, and that no error stops the block. -/

section
namespace Sys2Proof.Machine

open Sys2Proof.Claims

/-! ## The block never stops (R117) -/

/-- Where the line fits the buffer, every instruction answers a next state (R35). -/
theorem exec_completes_of_lineLen_le {s : State} (hl : s.lineLen.toNat ≤ 48) (i : Instr) :
    ∃ t, exec i s = .next t := by
  obtain ⟨not_refused, fault_iff⟩ := onlyAnOverlongLineStopsARequest i s
  cases h : exec i s with
  | next t => exact ⟨t, rfl⟩
  | fault f =>
    obtain ⟨-, -, overlong, -⟩ := (fault_iff f).mp h
    exact absurd hl overlong.not_ge
  | refused r => exact absurd h (not_refused r)

/-- So does every request: a word that does not decode takes the error entry. -/
theorem perform_completes_of_lineLen_le {s : State} (hl : s.lineLen.toNat ≤ 48) (r : Request) :
    ∃ t, perform r s = .next t := by
  cases hd : decode r.word with
  | ok i =>
    rw [perform_ok hd]
    exact exec_completes_of_lineLen_le (s := { s with ink := r.ink }) hl i
  | error k => exact ⟨_, perform_error hd⟩

theorem advance_idle {s : State} (ho : s.outstanding = none) (hh : s.host = []) : advance s = .next s := by
  simp [advance, ho, hh]

theorem advance_completes_of_lineLen_le {s : State} (hl : s.lineLen.toNat ≤ 48) : ∃ t, advance s = .next t := by
  cases ho : s.outstanding with
  | some r =>
    rw [advance_outstanding ho]
    exact perform_completes_of_lineLen_le (s := { s with outstanding := none }) hl r
  | none =>
    cases hh : s.host with
    | nil => exact ⟨s, advance_idle ho hh⟩
    | cons action rest =>
      cases action with
      | request r =>
        rw [advance_presented ho hh]
        exact perform_completes_of_lineLen_le (s := { s with host := rest }) hl r
      | read a => exact ⟨_, advance_read ho hh⟩

/-- With downstream stuck the block goes on, or holds its request: "stuck, not faulted" (R133). -/
theorem stall_eq_advance_or_hold (s : State) : stall s = advance s ∨ stall s = .next (hold s) := by
  cases hr : nextRequest s with
  | none => exact .inl (stall_none hr)
  | some r =>
    by_cases he : emitted r s = []
    · exact .inl (stall_silent hr he)
    · exact .inr (stall_emitting hr he)

theorem safeStep_of_lineLen_le {s : State} (hl : s.lineLen.toNat ≤ 48) : SafeStep s := by
  unfold SafeStep step
  split
  next =>
    split
    next =>
      rcases stall_eq_advance_or_hold s with h | h
      · exact h ▸ advance_completes_of_lineLen_le hl
      · exact ⟨_, h⟩
    next => exact advance_completes_of_lineLen_le hl
  next env _ => exact advance_completes_of_lineLen_le (s := { s with env := env }) hl
  next => exact ⟨_, rfl⟩
  next => exact ⟨_, rfl⟩

/-- Every part of the invariant is kept by every step. -/
theorem step_keeps_inv {s t : State} (hs : Inv s) (h : step s = .next t) : Inv t := by
  obtain ⟨hstatus, hrsp⟩ := statusAndResponsesStayLegal s t hs.status hs.rsp h
  obtain ⟨hmem, hsent, -⟩ := lineBufferStaysCanonical s t hs.mem hs.sent h
  exact {
    status := hstatus
    line := lineGroupStaysInOneOfItsThreeCases.2.1 s t hs.line h
    mem := hmem
    out := emittedFramesHaveTheFrameShape.2 s t hs.out h
    sent := hsent
    rsp := hrsp }

theorem Inv.safeStep {s : State} (hs : Inv s) : SafeStep s := safeStep_of_lineLen_le (lineLen_le_of_lineOk hs.line)

/-- Settles O52: a line of R30 fits the buffer, so no step stops; and each step keeps the invariant, by induction on the
number of steps. -/
theorem blockNeverStopsFromALegalState : Obligations.BlockNeverStopsFromALegalState := by
  intro n
  induction n with
  | zero => exact fun s hs => ⟨hs.safeStep, s, rfl, hs⟩
  | succ n ih =>
    intro s hs
    obtain ⟨t, ht⟩ := hs.safeStep
    rw [runFor_succ ht]
    exact ⟨hs.safeStep, (ih t (step_keeps_inv hs ht)).2⟩

/-! ## The first cause is reported (R115) -/

/-- A word that is no form, whose `OP` is not an unassigned one beside a clear `RSVD`, is `ERR_RSVD`. -/
theorem decode_of_not_wellFormed {w : Word} (h : (fieldsOf w).wellFormed = false)
    (hn : ¬ ((fieldsOf w).rsvd = 0 ∧ (fieldsOf w).kind = 0b00#2 ∧ WireOp.ofByte? (fieldsOf w).op = none)) :
    decode w = .error .rsvd := by
  cases hd : decode w with
  | ok i => simp [exists_decode_iff_wellFormed.mp ⟨i, hd⟩] at h
  | error k => exact congrArg _ ((decodeFields_error hd).trans (if_neg hn))

/-- Settles O6: the decoder looks at `RSVD`, then at a FRAME word's `OP`, then at the other bits; a print looks for a line
before it looks at the line's form. -/
theorem firstCauseIsReported : Obligations.FirstCauseIsReported := by
  refine ⟨fun w hr => decodeFields_of_rsvd hr, fun w hr hk ho => decodeFields_unassigned hr hk ho,
    fun w _ hn hwf => decode_of_not_wellFormed hwf fun ⟨_, ho⟩ => hn ho, fun i s hi hv => ?noLine,
    fun s hv hc => printRequest_of_disagrees hv (by simp [hc]),
    fun s hv hc => printRequest_of_disagrees hv (by simp [hc]),
    rejects_of_decode_error (k := .rsvd) (by decide), rejects_of_decode_error (k := .rsvd) (by decide)⟩
  case noLine =>
    rcases hi with rfl | rfl
    · exact printRequest_of_noLine hv
    · exact printRequest_of_noLine hv

/-! ## The error entry (R116, R118) -/

/-- `STATUS` and `RSP`: a request answers success and leaves `STATUS` alone, or it takes the error entry, or it is
`STAT.CLR` (R21, R114). -/
theorem perform_status {r : Request} {s t : State} (h : perform r s = .next t) :
    (t.statusErr = s.statusErr ∧ t.statusCode = s.statusCode ∧ t.rsp = s.rsp ++ [rspOk]) ∨
    (∃ k, t = fail k { s with ink := r.ink }) ∨
    (decode r.word = .ok .statClr ∧ t = succeed (clearStatus { s with ink := r.ink })) := by
  cases hd : decode r.word with
  | error k =>
    rw [perform_error hd] at h
    exact .inr (.inl ⟨k, (Host.Outcome.next.inj h).symm⟩)
  | ok i =>
    rw [perform_ok hd] at h
    rcases exec_status h with hok | hfail | ⟨rfl, ht⟩
    · exact .inl hok
    · exact .inr (.inl hfail)
    · exact .inr (.inr ⟨rfl, ht⟩)

/-- Settles O36: the error entry is `Fail`, with a code of 1 to 4; every other request answers 0, and of these `STAT.CLR`
alone writes `STATUS`. -/
theorem errorEntryDoesExactlyFail : Obligations.ErrorEntryDoesExactlyFail := by
  refine ⟨fun w k => rejects_of_decode_error, fun r s t h => ?_⟩
  rcases perform_status h with ⟨herr, hcode, hrsp⟩ | ⟨k, rfl⟩ | ⟨hclr, rfl⟩
  · exact ⟨rspOk, hrsp, by decide, fun hn => absurd rfl hn, fun _ _ => ⟨herr, hcode⟩⟩
  · exact ⟨k.code, rfl, (code_legal k).2, fun _ => rfl, fun h0 => absurd h0 (code_legal k).1⟩
  · exact ⟨rspOk, rfl, by decide, fun hn => absurd rfl hn, fun _ hn => absurd hclr hn⟩

/-- The error entry, while an error stands, keeps the first error's code and only answers its own (R118). -/
theorem afterError_of_statusErr {s : State} (h : s.statusErr = true) (code : Rsp) :
    afterError code s = { s with rsp := s.rsp ++ [code] } := by
  simp [afterError, h]

/-- Settles O37: of what a step does, reset and `STAT.CLR` alone clear `ERR`, and the error entry keeps the code where
one stands. -/
theorem errorStaysUntilClearOrReset : Obligations.ErrorStaysUntilClearOrReset := by
  refine ⟨fun s t herr h hrst hclr => ?stays, fun r s t code herr h hrsp hne => ?second⟩
  case stays =>
    rcases step_next h with ⟨env, he, -⟩ | ⟨-, r, host, env, hr, hp⟩ | ⟨-, _, _, _, _, _, -, -, rfl⟩
    · exact absurd (by simp [ResetArrives, he]) hrst
    · rcases perform_status hp with ⟨hse, hsc, -⟩ | ⟨k, rfl⟩ | ⟨hd, -⟩
      · exact ⟨hse.trans herr, hsc⟩
      · exact ⟨rfl, if_pos herr⟩
      · exact absurd ⟨r, hr, hd⟩ hclr
    · exact ⟨herr, rfl⟩
  case second =>
    obtain ⟨answered, hanswered, -, hfail, -⟩ := errorEntryDoesExactlyFail.2 r s t h
    obtain rfl : answered = code := by simpa [hanswered] using hrsp
    exact (hfail hne).trans (afterError_of_statusErr (s := { s with ink := r.ink }) herr answered)

/-! ## An idle block (R126) -/

theorem hold_idle {s : State} (ho : s.outstanding = none) (hh : s.host = []) : hold s = s := by
  simp [hold, ho, hh]

theorem nextRequest_idle {s : State} (ho : s.outstanding = none) (hh : s.host = []) : nextRequest s = none := by
  simp [nextRequest, ho, hh]

/-- Settles O41: with no request and no read, going on and holding both leave the state as it is. -/
theorem idleBlockHoldsItsState : Obligations.IdleBlockHoldsItsState := by
  intro s ho hh hrst
  cases he : s.env with
  | nil =>
    have exhausted : { s with env := [] } = s := by rw [← he]
    rw [step_exhausted_of_none he (nextRequest_idle ho hh), advance_idle ho hh, List.tail_nil, exhausted]
  | cons sample env =>
    simp only [step, he, List.tail_cons]
    cases sample with
    | go => exact advance_idle (s := { s with env := env }) ho hh
    | wait => exact congrArg Host.Outcome.next (hold_idle (s := { s with env := env }) ho hh)
    | rst => simp [ResetArrives, he] at hrst

end Sys2Proof.Machine
end

/-! # Proofs: reset and hazards (spec/70_reset_and_hazards.md). What `RST` leaves, the request that waits for the
environment or for downstream, and the read behind it. -/

section
namespace Sys2Proof.Machine

open Sys2Proof.Claims

/-! ## Reset (R127, R128) -/

/-- `RST` always takes effect. -/
theorem step_of_resetArrives {s : State} (h : ResetArrives s) :
    step s = .next (takeReset { s with env := s.env.tail }) := by
  obtain ⟨env, he⟩ := List.head?_eq_some_iff.mp h
  simp only [step, he, List.tail_cons]

theorem codesOk_reset : CodesOk State.reset := ⟨by simp [StatusOk, State.reset], by simp [RspOk, State.reset]⟩

/-! ## The bytes a request would emit (R75, R128) -/

/-- What a request appends to `OUT` is what it would emit. -/
theorem out_of_perform {r : Request} {s t : State} (h : perform r s = .next t) : t.out = s.out ++ emitted r s := by
  obtain ⟨bytes, hout, -⟩ := perform_appends h
  simp [emitted, h, hout]

theorem emitted_ne_nil_iff {r : Request} {s : State} :
    emitted r s ≠ [] ↔ ∃ t, perform r s = .next t ∧ t.out ≠ s.out := by
  constructor
  · intro hem
    cases hp : perform r s with
    | next t => exact ⟨t, rfl, by simpa [out_of_perform hp] using hem⟩
    | fault f => simp [emitted, hp] at hem
    | refused x => simp [emitted, hp] at hem
  · rintro ⟨t, hp, hne⟩ hnil
    exact hne (by rw [out_of_perform hp, hnil, List.append_nil])

/-- No instruction reads the environment's samples: they can be replaced before or after it. -/
theorem exec_env (i : Instr) (s : State) (env : List EnvSample) :
    exec i { s with env := env } = mapNext (fun t => { t with env := env }) (exec i s) := by
  by_cases hi : IsFrameForm i
  · exact exec_commutes_of_frameForm (f := fun t => { t with env := env }) hi (fun _ => rfl) (fun _ => rfl)
      fun _ => ⟨fun _ => rfl, rfl⟩
  · cases i with
    | lineEnc | crcClr | crcUpd | statClr | capSet => rfl
    | _ => exact absurd rfl hi

theorem perform_env (r : Request) (s : State) (env : List EnvSample) :
    perform r { s with env := env } = mapNext (fun t => { t with env := env }) (perform r s) := by
  cases hd : decode r.word with
  | ok i =>
    rw [perform_ok hd, perform_ok hd]
    exact exec_env i { s with ink := r.ink } env
  | error k =>
    rw [perform_error hd, perform_error hd]
    rfl

/-- So what a request would emit does not depend on the samples. -/
theorem emitted_env (r : Request) (s : State) (env : List EnvSample) :
    emitted r { s with env := env } = emitted r s := by
  simp only [emitted, perform_env]
  cases perform r s <;> rfl

/-- The bytes of an abandoned request that were handed downstream: a prefix of what it would have emitted. -/
theorem cutBytes_prefix {s : State} {r : Request} (ho : s.outstanding = some r) : cutBytes s <+: emitted r s := by
  simpa only [cutBytes, ho] using List.take_prefix _ _

theorem cutBytes_env (s : State) (env : List EnvSample) : cutBytes { s with env := env } = cutBytes s := by
  simp only [cutBytes, emitted_env]

theorem cutBytes_idle {s : State} (ho : s.outstanding = none) : cutBytes s = [] := by
  simp [cutBytes, ho]

/-- `RST` adds the bytes cut off to the record of those handed downstream. -/
theorem sent_of_resetArrives {s t : State} (hrst : ResetArrives s) (h : step s = .next t) :
    t.sent = s.sent ++ cutBytes s := by
  rw [step_of_resetArrives hrst] at h
  cases h
  rw [takeReset_sent, cutBytes_env]

/-! ## What a request leaves of the channel (R34, R43) -/

/-- No instruction touches the request channel, what the host presents, or the environment's samples. -/
theorem exec_channel {i : Instr} {s t : State} (h : exec i s = .next t) :
    t.outstanding = s.outstanding ∧ t.host = s.host ∧ t.env = s.env := by
  rcases exec_next h with
    ⟨_, _, _, rfl, _⟩ | ⟨_, _, rfl⟩ | ⟨_, _, rfl⟩ | ⟨_, rfl⟩ | ⟨_, _, rfl⟩ | ⟨_, rfl⟩ | ⟨_, _, rfl⟩
  all_goals exact ⟨rfl, rfl, rfl⟩

theorem perform_channel {r : Request} {s t : State} (h : perform r s = .next t) :
    t.outstanding = s.outstanding ∧ t.host = s.host ∧ t.env = s.env := by
  cases hd : decode r.word with
  | ok i =>
    rw [perform_ok hd] at h
    exact (exec_channel h :)
  | error k =>
    rw [perform_error hd] at h
    cases h
    exact ⟨rfl, rfl, rfl⟩

/-! ## Runs of steps -/

theorem runFor_add {m n : Nat} {s t : State} (h : runFor m s = .next t) : runFor (m + n) s = runFor n t := by
  induction m generalizing s with
  | zero =>
    obtain rfl : s = t := Host.Outcome.next.inj h
    rw [Nat.zero_add]
  | succ m ih =>
    rw [Nat.succ_add]
    cases hs : step s with
    | next u =>
      rw [runFor_succ hs] at h ⊢
      exact ih h
    | fault f => simp [runFor, hs] at h
    | refused x => simp [runFor, hs] at h

/-- A state that steps to itself stays for any number of steps. -/
theorem runFor_of_step_self {s : State} (h : step s = .next s) (n : Nat) : runFor n s = .next s := by
  induction n with
  | zero => rfl
  | succ n ih => rw [runFor_succ h, ih]

/-! ## The request that waits (R133) -/

theorem nextRequest_outstanding {s : State} {r : Request} (ho : s.outstanding = some r) : nextRequest s = some r := by
  simp [nextRequest, ho]

/-- `wait`: the outstanding request is held. -/
theorem step_wait_outstanding {s : State} {r : Request} {env : List EnvSample} (ho : s.outstanding = some r)
    (he : s.env = .wait :: env) : step s = .next { s with env := env } := by
  simp only [step, he]
  exact congrArg Host.Outcome.next (hold_outstanding (s := { s with env := env }) ho)

/-- Any number of waits use up their samples and change nothing else. -/
theorem runFor_waits {n : Nat} {s : State} {r : Request} {env : List EnvSample} (ho : s.outstanding = some r)
    (he : s.env = List.replicate n .wait ++ env) : runFor n s = .next { s with env := env } := by
  induction n generalizing s with
  | zero =>
    obtain rfl : s.env = env := he
    rfl
  | succ n ih =>
    rw [List.replicate_succ, List.cons_append] at he
    rw [runFor_succ (step_wait_outstanding ho he)]
    exact ih ho rfl

/-- With downstream stuck, a request that would emit a byte is held (R133, U7). -/
theorem step_stuck_emitting {s : State} {r : Request} (he : s.env = []) (hd : s.downstreamStuck = true)
    (hr : nextRequest s = some r) (hem : emitted r s ≠ []) : step s = .next (hold s) := by
  simp only [step, he, hd, if_true]
  exact stall_emitting hr hem

/-- An outstanding one leaves the block where it is. -/
theorem step_stuck_outstanding {s : State} {r : Request} (ho : s.outstanding = some r) (he : s.env = [])
    (hd : s.downstreamStuck = true) (hem : emitted r s ≠ []) : step s = .next s := by
  rw [step_stuck_emitting he hd (nextRequest_outstanding ho) hem, hold_outstanding ho]

/-! ## The obligations of spec/70_reset_and_hazards.md -/

/-- Settles O42: each wait holds the request as it is, by induction on their number; then `go` completes it, and `rst`
resets. -/
theorem heldRequestWaitsWithoutLosingBytes : Obligations.HeldRequestWaitsWithoutLosingBytes := by
  intro n s r env ho he
  exact ⟨runFor_waits ho he, step_go_outstanding (s := { s with env := .go :: env }) ho rfl, rfl⟩

/-- Settles O44: after the waits the request completes, which answers no read and leaves the channel idle with the read
still presented; the next step answers it. -/
theorem heldReadAnswersWithTheStateTheRequestLeft : Obligations.HeldReadAnswersWithTheStateTheRequestLeft := by
  intro n s t r a rest env ho hh he hp
  have hreads : t.reads = s.reads := (perform_reads hp :)
  obtain ⟨hidle, hhost, henv⟩ : t.outstanding = none ∧ t.host = s.host ∧ t.env = .go :: env := perform_channel hp
  have completed := (step_go_outstanding (s := { s with env := .go :: .go :: env }) ho rfl).trans hp
  have answered := step_read hidle (hhost.trans hh) (by simp [ResetArrives, henv])
  refine ⟨hreads, hhost, ?_⟩
  rw [runFor_add (runFor_waits ho he), runFor_succ completed, runFor_succ answered, henv, ← hreads]
  rfl

/-- Settles O46: the step is `takeReset`, whatever the state; it adds to the record the bytes cut off, which are none at an
idle block and otherwise a prefix of what the request would have emitted. -/
theorem resetAbandonsTheOutstandingRequest : Obligations.ResetAbandonsTheOutstandingRequest := by
  refine ⟨fun s hrst => ⟨_, step_of_resetArrives hrst, rfl, rfl, rfl, _, rfl⟩, fun s t hrst h ho => ?idle,
    fun s t u r hrst h ho hp => ⟨_, _, sent_of_resetArrives hrst h, cutBytes_prefix ho, out_of_perform hp⟩⟩
  case idle => rw [sent_of_resetArrives hrst h, cutBytes_idle ho, List.append_nil]

/-- Settles O53: once the waits are over, the held state steps to itself; a request that emits nothing completes as with
downstream ready. -/
theorem stuckDownstreamHoldsAFrameForEver : Obligations.StuckDownstreamHoldsAFrameForEver := by
  refine ⟨fun k n s r ho he hd hem => ?held, fun s r rest ho hh he hd hem => ?accepted,
    fun s r ho he _ hsilent => ?silent, fun s r => emitted_ne_nil_iff⟩
  case held =>
    have stays := step_stuck_outstanding (s := { s with env := [] }) ho rfl hd (by rwa [emitted_env])
    rw [runFor_add (runFor_waits ho (by rw [he, List.append_nil])), runFor_of_step_self stays]
  case accepted => rw [step_stuck_emitting he hd (nextRequest_presented ho hh) hem, hold_presented ho hh]
  case silent => rw [step_exhausted he (nextRequest_outstanding ho) (.inr hsilent), advance_outstanding ho]

/-- Settles O45: `State.reset` and what `takeReset` leaves agree on every register. -/
theorem resetGivesEveryRegisterItsValue : Obligations.ResetGivesEveryRegisterItsValue := by
  rintro s t (rfl | ⟨hrst, h⟩)
  · exact ⟨rfl, rfl, rfl, rfl, rfl, rfl, fun _ => rfl, rfl, rfl, rfl⟩
  · rw [step_of_resetArrives hrst] at h
    cases h
    simp

/-- Settles O51: at reset no line is valid, and `OUT`, both records and the line buffer are empty. -/
theorem resetMeetsTheInvariant : Obligations.ResetMeetsTheInvariant where
  status := codesOk_reset.1
  line := lineGroupStaysInOneOfItsThreeCases.1
  mem := Memory.wf_nil
  out := wholeFrames_nil
  sent := List.suffix_rfl
  rsp := codesOk_reset.2

end Sys2Proof.Machine
end
